-- ==== Sys2Proof/Word.lean ====
section
/-! DEFINITION. The two widths of the block: `u8` and `u16` (00_scope.md R7, R10). -/

namespace Sys2Proof

/-- `u8`: one byte (20_memory.md R41). -/
abbrev Byte := BitVec 8

/-- `u16`: the CRC register, a checksum, a register address, a write value (00_scope.md R7). -/
abbrev U16 := BitVec 16

end Sys2Proof
end

