-- ==== Sys2Proof/Syntax.lean ====
section
/-! DEFINITION. The commands of the block as the host presents them (the record of 10_state.md R26) and as
the block reads them (one constructor per row of spec/opcode_table.json). -/

namespace Sys2Proof

/-- The command record of 10_state.md R26. The spec gives no bit layout of the record beyond the 4-bit
OP, so the record itself is the encoded form. DESIGN CHOICE (notes/assumptions/1.md, safe).
REQ has 8 bytes exactly (R26), so no other length can be written. DEDUCED (notes/assumptions/8.md, safe). -/
structure Command where
  op      : BitVec 4
  slave   : Byte
  regaddr : U16
  value   : U16
  din     : Byte
  expfc   : Byte
  explen  : Byte
  buf     : List Byte
  req     : Vector Byte 8
deriving DecidableEq, Repr

/-- A command with only the operand fields it reads (30_encoding.md R60). -/
inductive Instr where
  /-- OP 0x1, CMD-N (40_crc.md R105). -/
  | crcInit
  /-- OP 0x2, CMD-D (40_crc.md R106). -/
  | crcUpdate (din : Byte)
  /-- OP 0x3, CMD-N (40_crc.md R107). -/
  | crcRead
  /-- OP 0x4, CMD-S (40_crc.md R108). -/
  | crcBlock (buf : List Byte)
  /-- OP 0x5, CMD-A (41_frame_build.md R122). -/
  | bldRh (slave : Byte) (regaddr : U16)
  /-- OP 0x6, CMD-A (41_frame_build.md R123). -/
  | bldRi (slave : Byte) (regaddr : U16)
  /-- OP 0x7, CMD-AV (41_frame_build.md R124). -/
  | bldWs (slave : Byte) (regaddr value : U16)
  /-- OP 0x8, CMD-R (42_frame_check.md R142). -/
  | chkRd (slave expfc explen : Byte) (buf : List Byte)
  /-- OP 0x9, CMD-W (42_frame_check.md R143). -/
  | chkWr (req : Vector Byte 8) (buf : List Byte)
  /-- OP 0x0 (30_encoding.md R62). -/
  | reserved0
  /-- OP 0xA (30_encoding.md R62). -/
  | reservedA
  /-- OP 0xB (30_encoding.md R62). -/
  | reservedB
  /-- OP 0xC (30_encoding.md R62). -/
  | reservedC
  /-- OP 0xD (30_encoding.md R62). -/
  | reservedD
  /-- OP 0xE (30_encoding.md R62). -/
  | reservedE
  /-- OP 0xF (30_encoding.md R62). -/
  | reservedF
deriving DecidableEq, Repr

/-- The pseudo-instructions of 30_encoding.md R76. -/
inductive Pseudo where
  | chkRh (slave explen : Byte) (buf : List Byte)
  | chkRi (slave explen : Byte) (buf : List Byte)
  | crcStream (bytes : List Byte)
deriving DecidableEq, Repr

end Sys2Proof
end

