-- ==== Sys2Proof/Decode.lean ====
section
/-! DEFINITION. The decoder from a command record to a command, total on every record (30_encoding.md R61),
and the encoder back (30_encoding.md R60). -/

namespace Sys2Proof

/-- The decoder of 30_encoding.md R60-R62. It matches the four OP bits, most significant first, as the
`encoding` column of spec/opcode_table.json writes them, and takes the fields the row reads. Every one
of the 16 patterns stands here: nothing is rejected, and a reserved OP is a row of its own (R62). -/
def decode (c : Command) : Instr :=
  match c.op[3], c.op[2], c.op[1], c.op[0] with
  | false, false, false, false => .reserved0
  | false, false, false, true  => .crcInit
  | false, false, true,  false => .crcUpdate c.din
  | false, false, true,  true  => .crcRead
  | false, true,  false, false => .crcBlock c.buf
  | false, true,  false, true  => .bldRh c.slave c.regaddr
  | false, true,  true,  false => .bldRi c.slave c.regaddr
  | false, true,  true,  true  => .bldWs c.slave c.regaddr c.value
  | true,  false, false, false => .chkRd c.slave c.expfc c.explen c.buf
  | true,  false, false, true  => .chkWr c.req c.buf
  | true,  false, true,  false => .reservedA
  | true,  false, true,  true  => .reservedB
  | true,  true,  false, false => .reservedC
  | true,  true,  false, true  => .reservedD
  | true,  true,  true,  false => .reservedE
  | true,  true,  true,  true  => .reservedF

/-- The OP value of each row (30_encoding.md R60, R62). -/
def opcode : Instr → BitVec 4
  | .crcInit => 0x1
  | .crcUpdate _ => 0x2
  | .crcRead => 0x3
  | .crcBlock _ => 0x4
  | .bldRh _ _ => 0x5
  | .bldRi _ _ => 0x6
  | .bldWs _ _ _ => 0x7
  | .chkRd _ _ _ _ => 0x8
  | .chkWr _ _ => 0x9
  | .reserved0 => 0x0
  | .reservedA => 0xA
  | .reservedB => 0xB
  | .reservedC => 0xC
  | .reservedD => 0xD
  | .reservedE => 0xE
  | .reservedF => 0xF

/-- A record that carries `op` and nothing else: every operand field zero, BUF empty. -/
def blankCommand (op : BitVec 4) : Command :=
  { op := op, slave := 0, regaddr := 0, value := 0, din := 0, expfc := 0, explen := 0, buf := [],
    req := Vector.replicate 8 0 }

/-- The record of a command: its OP, the fields it reads, every other field zero (30_encoding.md R60). -/
def encode (i : Instr) : Command :=
  match i with
  | .crcInit => blankCommand (opcode i)
  | .crcUpdate din => { blankCommand (opcode i) with din := din }
  | .crcRead => blankCommand (opcode i)
  | .crcBlock buf => { blankCommand (opcode i) with buf := buf }
  | .bldRh slave regaddr => { blankCommand (opcode i) with slave := slave, regaddr := regaddr }
  | .bldRi slave regaddr => { blankCommand (opcode i) with slave := slave, regaddr := regaddr }
  | .bldWs slave regaddr value =>
      { blankCommand (opcode i) with slave := slave, regaddr := regaddr, value := value }
  | .chkRd slave expfc explen buf =>
      { blankCommand (opcode i) with slave := slave, expfc := expfc, explen := explen, buf := buf }
  | .chkWr req buf => { blankCommand (opcode i) with req := req, buf := buf }
  | .reserved0 => blankCommand (opcode i)
  | .reservedA => blankCommand (opcode i)
  | .reservedB => blankCommand (opcode i)
  | .reservedC => blankCommand (opcode i)
  | .reservedD => blankCommand (opcode i)
  | .reservedE => blankCommand (opcode i)
  | .reservedF => blankCommand (opcode i)

/-- The record of a table word: OP is bits 3..0 of the word (spec/opcode_table.json, mask 0xF), and the
operand fields, to which the table gives no bits, are zero. DESIGN CHOICE (notes/assumptions/1.md, safe). -/
def commandOfWord (w : Nat) : Command := blankCommand (BitVec.ofNat 4 w)

/-- What the decoder reads from a word of spec/opcode_table.json. It never refuses (30_encoding.md R61). -/
def decodeTableWord (_nbits w : Nat) : Option Instr := some (decode (commandOfWord w))

end Sys2Proof
end

