-- ==== Sys2Proof/Config.lean ====
section
/-! DEFINITION. What an implementation of the block fixes: the capacity of the BUF port (00_scope.md R8).
The spec leaves no value open that a command computes, so there is no free value here. -/

namespace Sys2Proof

/-- The implementation's parameters. DESIGN CHOICE (notes/assumptions/6.md, safe): BUF_MAX is held as
its excess over 260, so that the requirement `BUF_MAX >= 260` of 00_scope.md R8 holds of every value. -/
structure Config where
  bufSpare : Nat
deriving DecidableEq, Repr

/-- `BUF_MAX` (00_scope.md R8): the longest byte sequence the BUF port carries. -/
def Config.bufMax (c : Config) : Nat := 260 + c.bufSpare

/-- The default of 00_scope.md R8: `BUF_MAX = 260`. -/
def Config.default : Config := { bufSpare := 0 }

end Sys2Proof
end

