-- ==== Sys2Proof/Machine/State.lean ====
section
/-! DEFINITION. The state of the block, its result record, and the reasons a step could stop. -/

namespace Sys2Proof.Machine

/-- Raised by nothing: the block has no trap and every command completes (60_exceptions.md R160, R167,
70_reset_and_hazards.md R193). An error is a STATUS value in a next state. DEDUCED
(notes/assumptions/9.md, unsafe). -/
inductive Fault where
deriving DecidableEq, Repr

/-- Why a command could have no meaning. -/
inductive Refusal where
  /-- Raised by an arm of `exec` whose command has no meaning yet. No arm raises it. Safe. -/
  | notModelled (mnemonic : String)
deriving DecidableEq, Repr

/-- The four outcomes of a command (30_encoding.md R64, 60_exceptions.md R160). -/
inductive Status where
  | ok
  | reject
  | errAddr
  | errCmd
deriving DecidableEq, Repr

/-- The result record of 10_state.md R27. A field that the command's rule does not set is absent:
`none`, and never a default value (10_state.md R28). -/
structure Result where
  status  : Status
  chk     : Option U16
  frame   : Option (List Byte)
  payload : Option (List Byte)
deriving DecidableEq, Repr

/-- What reaches the block from outside, between commands: a command of the host (10_state.md R26), or
the platform's reset (70_reset_and_hazards.md R191). -/
inductive Input where
  | command (c : Command)
  | reset
deriving DecidableEq, Repr

/-- The block with its surroundings. The block's own persistent state is `crc` alone (10_state.md R20). -/
structure State where
  /-- The CRC register (10_state.md R21), before the final swap. -/
  crc     : U16
  /-- The result record of the command that the step just taken performed (10_state.md R27), absent until
  the first one completes (10_state.md R30) and again after a step that performed none, since it is not
  kept after the command (10_state.md R24). No command reads it. DESIGN CHOICE (notes/assumptions/2.md, unsafe). -/
  result  : Option Result
  /-- What the host and the platform will present, in order (20_memory.md R48). The head is presented
  next. DESIGN CHOICE (notes/assumptions/3.md, safe). -/
  pending : List Input
  /-- The implementation's parameters (00_scope.md R8). No step changes them. DESIGN CHOICE
  (notes/assumptions/6.md, safe). -/
  config  : Config
deriving DecidableEq, Repr

/-- The block after reset (10_state.md R30, 70_reset_and_hazards.md R190): CRC holds 0xFFFF, the result
record is absent, no command is in progress. BUF_MAX has its default (00_scope.md R8). -/
def State.reset : State :=
  { crc := 0xFFFF, result := none, pending := [], config := Config.default }

end Sys2Proof.Machine
end

