-- ==== Sys2Proof/Machine/Ops.lean ====
section
/-! DEFINITION. The operations that the commands share: the primitives of 00_scope.md R11 and R12, the
checksum functions of 40_crc.md, the frame formats of 30_encoding.md, the validations of
42_frame_check.md, the end of a command with a result or an error, and the platform's reset. -/

namespace Sys2Proof.Machine

/-! ## Bytes and 16-bit fields -/

/-- `v[7:0]` (00_scope.md R10). -/
def loByte (v : U16) : Byte := v.extractLsb' 0 8

/-- `v[15:8]` (00_scope.md R10). -/
def hiByte (v : U16) : Byte := v.extractLsb' 8 8

/-- `(hi << 8) | lo`, the 16-bit value of two bytes (00_scope.md R11, R12). -/
def join16 (hi lo : Byte) : U16 := (hi.setWidth 16 <<< 8) ||| lo.setWidth 16

/-- `swap16(v) = (v[7:0] << 8) | v[15:8]` (00_scope.md R12). -/
def swap16 (v : U16) : U16 := join16 (loByte v) (hiByte v)

/-- `be16(v)`: most significant byte first (00_scope.md R11, 20_memory.md R42). -/
def be16 (v : U16) : List Byte := [hiByte v, loByte v]

/-- `rd16be(s, k)` (00_scope.md R11), with no value where `s` has no bytes `k` and `k + 1`. -/
def rd16be (s : List Byte) (k : Nat) : Option U16 :=
  match s[k]?, s[k + 1]? with
  | some hi, some lo => some (join16 hi lo)
  | _, _ => none

/-- The bit pattern of a signed value, `v mod 65536` (30_encoding.md R73). -/
def valuePattern (v : Int) : U16 := BitVec.ofInt 16 v

/-! ## The checksum functions (40_crc.md) -/

/-- The polynomial (00_scope.md R9). -/
def crcPoly : U16 := 0xA001

/-- The initial register value (00_scope.md R9). -/
def crcSeed : U16 := 0xFFFF

/-- One iteration of 40_crc.md R100: a logical right shift, then the XOR if the bit shifted out is 1. -/
def crcBit (c : U16) : U16 := if c.getLsbD 0 then (c >>> 1) ^^^ crcPoly else c >>> 1

/-- `n` iterations of 40_crc.md R100. -/
def crcBits : Nat → U16 → U16
  | 0, c => c
  | n + 1, c => crcBits n (crcBit c)

/-- `crc_step(c, b)` (40_crc.md R100). -/
def crcStep (c : U16) (b : Byte) : U16 := crcBits 8 (c ^^^ b.setWidth 16)

/-- A running CRC value `c` after the bytes of `s`, in index order (40_crc.md R101, R106). -/
def crcFold (c : U16) (s : List Byte) : U16 := s.foldl crcStep c

/-- `crc16(s)` (40_crc.md R101). -/
def crc16 (s : List Byte) : U16 := crcFold crcSeed s

/-- The two checksum bytes behind `s`, low byte of the CRC value first (20_memory.md R43). -/
def crcBytes (s : List Byte) : List Byte := [loByte (crc16 s), hiByte (crc16 s)]

/-- `append_crc(s)` (40_crc.md R102, 30_encoding.md R65). -/
def appendCrc (s : List Byte) : List Byte := s ++ crcBytes s

/-- `checksum(s)` (40_crc.md R103). -/
def checksum (s : List Byte) : U16 := swap16 (crc16 s)

/-! ## Frames -/

/-- Read holding register (30_encoding.md R66). -/
def fcReadHolding : Byte := 3

/-- Read input register (30_encoding.md R66). -/
def fcReadInput : Byte := 4

/-- Write single holding register (30_encoding.md R66). -/
def fcWriteSingle : Byte := 6

/-- The register count of a read request, always 1 (30_encoding.md R67). -/
def readCount : U16 := 1

/-- `build_frame(slave, fc, w1, w2)` (41_frame_build.md R120). -/
def buildFrame (slave fc : Byte) (w1 w2 : U16) : List Byte :=
  appendCrc ([slave, fc] ++ be16 w1 ++ be16 w2)

/-- The read response frame of a payload, whose length byte is the payload's (30_encoding.md R70). Used to
say what CHK_RD accepts. -/
def readResponse (slave fc : Byte) (payload : List Byte) : List Byte :=
  appendCrc ([slave, fc, BitVec.ofNat 8 payload.length] ++ payload)

/-- `read_resp_ok(b, slave, fc, L)` (42_frame_check.md R140). Condition (a) is the outer test; under it
every index below is in range. The inner conditions stand in the order (b) to (f). -/
def readRespOk (b : List Byte) (slave fc len : Byte) : Bool :=
  if b.length = len.toNat + 5 then
    let covered := b.take (b.length - 2)
    (b[b.length - 2]? == some (loByte (crc16 covered)) &&
      b[b.length - 1]? == some (hiByte (crc16 covered))) &&
    b[0]? == some slave &&
    b[1]? == some fc &&
    b[2]? == some len &&
    (b[2]?).any (fun declared => decide (2 + declared.toNat < b.length - 2))
  else false

/-- `write_echo_ok(req, b)`: equal length and equal bytes at every index (42_frame_check.md R141). -/
def writeEchoOk (req b : List Byte) : Bool :=
  b.length == req.length && (List.range req.length).all fun i => b[i]? == req[i]?

/-! ## The end of a command -/

/-- `n` bytes from offset `k`, the sub-sequence `s[k..k+n)` (00_scope.md R11). -/
def slice (s : List Byte) (k n : Nat) : List Byte := (s.drop k).take n

/-- A result record that sets STATUS and no other field (10_state.md R28). -/
def Result.statusOnly (st : Status) : Result :=
  { status := st, chk := none, frame := none, payload := none }

/-- STATUS = OK and CHK (10_state.md R27). -/
def Result.withChk (v : U16) : Result := { Result.statusOnly .ok with chk := some v }

/-- STATUS = OK and FRAME (10_state.md R27). -/
def Result.withFrame (f : List Byte) : Result := { Result.statusOnly .ok with frame := some f }

/-- STATUS = OK and PAYLOAD (10_state.md R27). -/
def Result.withPayload (p : List Byte) : Result := { Result.statusOnly .ok with payload := some p }

/-- `CRC <- v` (00_scope.md R12). -/
def State.setCrc (s : State) (v : U16) : State := { s with crc := v }

/-- The result record of the command that completes replaces the one before, whole (10_state.md R27). -/
def State.setResult (s : State) (r : Result) : State := { s with result := some r }

/-- A command completes with the result record `r` (20_memory.md R46). -/
def complete (r : Result) (s : State) : Host.Outcome State Fault Refusal := .next (s.setResult r)

/-- The two error codes (60_exceptions.md R161, R162). -/
inductive ErrorCode where
  | errAddr
  | errCmd
deriving DecidableEq, Repr

/-- The STATUS value of an error (30_encoding.md R64). -/
def ErrorCode.status : ErrorCode → Status
  | .errAddr => .errAddr
  | .errCmd => .errCmd

/-- `raise <Error>` (00_scope.md R12), with the effect of 60_exceptions.md R164: STATUS alone is set and
nothing else is written. This is all the exception handling the block has (60_exceptions.md R167). -/
def raise (e : ErrorCode) (s : State) : Host.Outcome State Fault Refusal :=
  complete (Result.statusOnly e.status) s

/-! ## The platform -/

/-- The platform's reset, between commands (70_reset_and_hazards.md R190, R191). What is still to be
presented and the implementation's parameters are outside the block and stay. DEDUCED
(notes/assumptions/5.md, unsafe). -/
def platformReset (s : State) : Host.Outcome State Fault Refusal :=
  .next { s with crc := crcSeed, result := none }

/-- Nothing is presented. The result record of the command before is not kept after it (10_state.md R24),
and CRC is, since only two commands write it (R21) and the block performs only what the host presents
(R23). That such a step exists is DEDUCED (notes/assumptions/4.md, unsafe). -/
def idle (s : State) : Host.Outcome State Fault Refusal := .next { s with result := none }

end Sys2Proof.Machine
end

