-- ==== Sys2Proof/Machine/Operands.lean ====
section
/-! DEFINITION. The checks that commands make on their operands. Operands are raw values: nothing is
assembled, extended or scaled (30_encoding.md R73). -/

namespace Sys2Proof.Machine

/-- A legal slave address: `1 <= SLAVE <= 247` (41_frame_build.md R121). -/
def slaveLegal (slave : Byte) : Bool := decide (1 ≤ slave.toNat) && decide (slave.toNat ≤ 247)

/-- `len(BUF) > BUF_MAX` (30_encoding.md R63). -/
def bufTooLong (cfg : Config) (buf : List Byte) : Bool := decide (cfg.bufMax < buf.length)

end Sys2Proof.Machine
end

