-- ==== Sys2Proof/Machine/Build.lean ====
section
/-! DEFINITION. The frame serializer: BLD_RH, BLD_RI, BLD_WS (41_frame_build.md). -/

namespace Sys2Proof.Machine

/-- What the build commands share: the address check of 41_frame_build.md R121, then the frame of R120. -/
def buildRequest (slave fc : Byte) (w1 w2 : U16) (s : State) : Host.Outcome State Fault Refusal :=
  if slaveLegal slave then complete (Result.withFrame (buildFrame slave fc w1 w2)) s
  else raise .errAddr s

/-- BLD_RH (41_frame_build.md R122, 30_encoding.md R68). -/
def execBldRh (slave : Byte) (regaddr : U16) (s : State) : Host.Outcome State Fault Refusal :=
  buildRequest slave fcReadHolding regaddr readCount s

/-- BLD_RI (41_frame_build.md R123, 30_encoding.md R68). -/
def execBldRi (slave : Byte) (regaddr : U16) (s : State) : Host.Outcome State Fault Refusal :=
  buildRequest slave fcReadInput regaddr readCount s

/-- BLD_WS (41_frame_build.md R124, 30_encoding.md R69). VALUE is a bit pattern and is not checked
(41_frame_build.md R125). -/
def execBldWs (slave : Byte) (regaddr value : U16) (s : State) : Host.Outcome State Fault Refusal :=
  buildRequest slave fcWriteSingle regaddr value s

end Sys2Proof.Machine
end

