-- ==== Sys2Proof/Machine/Flags.lean ====
section
/-! DEFINITION. STATUS, the only condition a command reports (10_state.md R24): its 2-bit encoding. The
block has no persistent flag. -/

namespace Sys2Proof.Machine

/-- The STATUS field's value (30_encoding.md R64). -/
def Status.code : Status → BitVec 2
  | .ok => 0
  | .reject => 1
  | .errAddr => 2
  | .errCmd => 3

/-- A STATUS value's name (30_encoding.md R64). -/
def Status.ofCode (v : BitVec 2) : Status :=
  match v[1], v[0] with
  | false, false => .ok
  | false, true => .reject
  | true, false => .errAddr
  | true, true => .errCmd

/-- ACCEPT is OK, a failed check is REJECT (00_scope.md R15, 60_exceptions.md R163). -/
def Status.ofCheck (accepted : Bool) : Status := if accepted then .ok else .reject

end Sys2Proof.Machine
end

