-- ==== Sys2Proof/Machine/Check.lean ====
section
/-! DEFINITION. The frame deserializer: CHK_RD, CHK_WR (42_frame_check.md). -/

namespace Sys2Proof.Machine

/-- CHK_RD (42_frame_check.md R142). SLAVE, EXPFC and EXPLEN are compared as given (R145). -/
def execChkRd (slave expfc explen : Byte) (buf : List Byte) (s : State) :
    Host.Outcome State Fault Refusal :=
  if bufTooLong s.config buf then raise .errCmd s
  else if readRespOk buf slave expfc explen then
    complete (Result.withPayload (slice buf 3 explen.toNat)) s
  else complete (Result.statusOnly .reject) s

/-- CHK_WR (42_frame_check.md R143). REQ is trusted (R147). -/
def execChkWr (req : Vector Byte 8) (buf : List Byte) (s : State) :
    Host.Outcome State Fault Refusal :=
  if bufTooLong s.config buf then raise .errCmd s
  else complete (Result.statusOnly (Status.ofCheck (writeEchoOk req.toList buf))) s

end Sys2Proof.Machine
end

