-- ==== Sys2Proof/Machine/Crc.lean ====
section
/-! DEFINITION. The CRC family: CRC_INIT, CRC_UPDATE, CRC_READ, CRC_BLOCK (40_crc.md). -/

namespace Sys2Proof.Machine

/-- CRC_INIT (40_crc.md R105). -/
def execCrcInit (s : State) : Host.Outcome State Fault Refusal :=
  complete (Result.statusOnly .ok) (s.setCrc crcSeed)

/-- CRC_UPDATE (40_crc.md R106). -/
def execCrcUpdate (din : Byte) (s : State) : Host.Outcome State Fault Refusal :=
  complete (Result.statusOnly .ok) (s.setCrc (crcStep s.crc din))

/-- CRC_READ (40_crc.md R107). -/
def execCrcRead (s : State) : Host.Outcome State Fault Refusal :=
  complete (Result.withChk (swap16 s.crc)) s

/-- CRC_BLOCK, on a private copy of the running register (40_crc.md R108). -/
def execCrcBlock (buf : List Byte) (s : State) : Host.Outcome State Fault Refusal :=
  if bufTooLong s.config buf then raise .errCmd s
  else complete (Result.withChk (checksum buf)) s

end Sys2Proof.Machine
end

