-- ==== Sys2Proof/Machine/Reserved.lean ====
section
/-! DEFINITION. The seven reserved OP values: each completes with ERR_CMD (30_encoding.md R62). -/

namespace Sys2Proof.Machine

/-- OP 0x0 (30_encoding.md R62). -/
def execReserved0 (s : State) : Host.Outcome State Fault Refusal := raise .errCmd s

/-- OP 0xA (30_encoding.md R62). -/
def execReservedA (s : State) : Host.Outcome State Fault Refusal := raise .errCmd s

/-- OP 0xB (30_encoding.md R62). -/
def execReservedB (s : State) : Host.Outcome State Fault Refusal := raise .errCmd s

/-- OP 0xC (30_encoding.md R62). -/
def execReservedC (s : State) : Host.Outcome State Fault Refusal := raise .errCmd s

/-- OP 0xD (30_encoding.md R62). -/
def execReservedD (s : State) : Host.Outcome State Fault Refusal := raise .errCmd s

/-- OP 0xE (30_encoding.md R62). -/
def execReservedE (s : State) : Host.Outcome State Fault Refusal := raise .errCmd s

/-- OP 0xF (30_encoding.md R62). -/
def execReservedF (s : State) : Host.Outcome State Fault Refusal := raise .errCmd s

end Sys2Proof.Machine
end

