-- ==== Sys2Proof/Machine/Dispatch.lean ====
section
/-! DEFINITION. One arm per row of spec/opcode_table.json. -/

namespace Sys2Proof.Machine

def exec (i : Instr) (s : State) : Host.Outcome State Fault Refusal :=
  match i with
  | .crcInit => Sys2Proof.Machine.execCrcInit s
  | .crcUpdate din => Sys2Proof.Machine.execCrcUpdate din s
  | .crcRead => Sys2Proof.Machine.execCrcRead s
  | .crcBlock buf => Sys2Proof.Machine.execCrcBlock buf s
  | .bldRh slave regaddr => Sys2Proof.Machine.execBldRh slave regaddr s
  | .bldRi slave regaddr => Sys2Proof.Machine.execBldRi slave regaddr s
  | .bldWs slave regaddr value => Sys2Proof.Machine.execBldWs slave regaddr value s
  | .chkRd slave expfc explen buf => Sys2Proof.Machine.execChkRd slave expfc explen buf s
  | .chkWr req buf => Sys2Proof.Machine.execChkWr req buf s
  | .reserved0 => Sys2Proof.Machine.execReserved0 s
  | .reservedA => Sys2Proof.Machine.execReservedA s
  | .reservedB => Sys2Proof.Machine.execReservedB s
  | .reservedC => Sys2Proof.Machine.execReservedC s
  | .reservedD => Sys2Proof.Machine.execReservedD s
  | .reservedE => Sys2Proof.Machine.execReservedE s
  | .reservedF => Sys2Proof.Machine.execReservedF s

end Sys2Proof.Machine
end

