-- ==== Sys2Proof/Machine/Step.lean ====
section
/-! DEFINITION. One step of the block: the next input is taken, whole (00_scope.md R6, 20_memory.md R46). -/

namespace Sys2Proof.Machine

/-- One step. A presented command is decoded and performed; a platform reset falls between commands
(70_reset_and_hazards.md R191); with nothing presented, the block is idle. -/
def step (s : State) : Host.Outcome State Fault Refusal :=
  match s.pending with
  | [] => idle s
  | .reset :: rest => platformReset { s with pending := rest }
  | .command c :: rest => exec (decode c) { s with pending := rest }

/-- The host presents the records `cs`, in order, after what it was already going to present
(20_memory.md R48). -/
def State.present (s : State) (cs : List Command) : State :=
  { s with pending := s.pending ++ cs.map .command }

/-- The host presents the command of a table word next, before anything it was going to present. The
block fetches nothing (10_state.md R23): this is how a command comes to be performed
(notes/assumptions/3.md). -/
def State.withFetchWord (s : State) (_nbits w : Nat) : State :=
  { s with pending := .command (commandOfWord w) :: s.pending }

end Sys2Proof.Machine
end

