-- ==== Sys2Proof/Machine/Assembler.lean ====
section
/-! DEFINITION. The assembler syntax of commands (30_encoding.md R75) and the pseudo-instructions with
their expansions (30_encoding.md R76). A line becomes the commands it stands for; the records are their
`encode`. -/

namespace Sys2Proof.Machine

/-! ## Pseudo-instructions -/

/-- The expansions of 30_encoding.md R76. -/
def expand : Pseudo → List Instr
  | .chkRh slave explen buf => [.chkRd slave fcReadHolding explen buf]
  | .chkRi slave explen buf => [.chkRd slave fcReadInput explen buf]
  | .crcStream bytes => [.crcInit] ++ bytes.map .crcUpdate ++ [.crcRead]

/-! ## Lines -/

/-- Why a line is no command. -/
inductive AsmError where
  /-- A character that no token has. -/
  | badCharacter
  /-- A word in an operand's place that is no number. -/
  | badNumber
  /-- Operands, commas or brackets out of place. -/
  | badOperands
  /-- No command has this name with operands of these shapes. -/
  | noSuchCommand
  /-- An operand outside its field width: an assembly error, never truncated (30_encoding.md R75). -/
  | outOfRange
deriving DecidableEq, Repr

/-- The tokens of a line. -/
inductive Token where
  | word (cs : List Char)
  | comma
  | lbrack
  | rbrack
deriving DecidableEq, Repr

/-- A character of a mnemonic or a number. -/
def isWordChar (c : Char) : Bool := c.isAlphanum || c == '_' || c == '-'

/-- The word read so far, last character first, put before the tokens read so far, last token first. -/
def endWord (word : List Char) (done : List Token) : List Token :=
  match word with
  | [] => done
  | c :: cs => .word (c :: cs).reverse :: done

/-- The tokens of a line. `;` starts a comment (30_encoding.md R75). -/
def tokens : List Char → List Char → List Token → Except AsmError (List Token)
  | [], word, done => .ok (endWord word done).reverse
  | c :: cs, word, done =>
    if c == ';' then .ok (endWord word done).reverse
    else if c == ' ' || c == '\t' then tokens cs [] (endWord word done)
    else if c == ',' then tokens cs [] (.comma :: endWord word done)
    else if c == '[' then tokens cs [] (.lbrack :: endWord word done)
    else if c == ']' then tokens cs [] (.rbrack :: endWord word done)
    else if isWordChar c then tokens cs (c :: word) done
    else .error .badCharacter

/-- A number of a line, and whether it was written in hexadecimal. -/
structure Number where
  value : Int
  hex   : Bool
deriving DecidableEq, Repr

/-- The value of a digit in base 10 or 16. -/
def digitValue (base : Nat) (c : Char) : Option Nat :=
  if '0' ≤ c ∧ c ≤ '9' then some (c.toNat - '0'.toNat)
  else if base = 16 ∧ 'a' ≤ c ∧ c ≤ 'f' then some (c.toNat - 'a'.toNat + 10)
  else if base = 16 ∧ 'A' ≤ c ∧ c ≤ 'F' then some (c.toNat - 'A'.toNat + 10)
  else none

/-- The value of a digit string, after the value `acc` of the digits before it. -/
def digitsValue (base : Nat) : List Char → Nat → Option Nat
  | [], acc => some acc
  | c :: cs, acc => (digitValue base c).bind fun d => digitsValue base cs (acc * base + d)

/-- Decimal with an optional minus sign, or hexadecimal with a `0x` prefix (30_encoding.md R75). -/
def parseNumber (cs : List Char) : Except AsmError Number :=
  let read :=
    match cs with
    | '0' :: 'x' :: d :: ds => (digitsValue 16 (d :: ds) 0).map fun n => { value := n, hex := true }
    | '-' :: d :: ds => (digitsValue 10 (d :: ds) 0).map fun n => { value := -n, hex := false }
    | d :: ds => (digitsValue 10 (d :: ds) 0).map fun n => { value := n, hex := false }
    | [] => none
  match read with
  | some n => .ok n
  | none => .error .badNumber

/-- An operand: a number, or a byte list in brackets (30_encoding.md R75). -/
inductive Operand where
  | num (n : Number)
  | list (ns : List Number)
deriving DecidableEq, Repr

/-- What may come next among the operands. The lists hold the numbers read so far, last first. -/
inductive Expecting where
  | operand
  | separator
  | numberOrClose
  | number (ns : List Number)
  | commaOrClose (ns : List Number)
deriving DecidableEq, Repr

/-- The operands of a line, separated by commas. `done` holds those read so far, last first. -/
def parseOperands : Expecting → List Operand → List Token → Except AsmError (List Operand)
  | .separator, done, [] => .ok done.reverse
  | .separator, done, .comma :: ts => parseOperands .operand done ts
  | .operand, done, .word w :: ts => do
    let n ← parseNumber w
    parseOperands .separator (.num n :: done) ts
  | .operand, done, .lbrack :: ts => parseOperands .numberOrClose done ts
  | .numberOrClose, done, .rbrack :: ts => parseOperands .separator (.list [] :: done) ts
  | .numberOrClose, done, .word w :: ts => do
    let n ← parseNumber w
    parseOperands (.commaOrClose [n]) done ts
  | .number ns, done, .word w :: ts => do
    let n ← parseNumber w
    parseOperands (.commaOrClose (n :: ns)) done ts
  | .commaOrClose ns, done, .comma :: ts => parseOperands (.number ns) done ts
  | .commaOrClose ns, done, .rbrack :: ts => parseOperands .separator (.list ns.reverse :: done) ts
  | _, _, _ => .error .badOperands

/-- A u8 operand. -/
def asmU8 (n : Number) : Except AsmError Byte :=
  if 0 ≤ n.value ∧ n.value ≤ 255 then .ok (BitVec.ofInt 8 n.value) else .error .outOfRange

/-- A u16 operand. -/
def asmU16 (n : Number) : Except AsmError U16 :=
  if 0 ≤ n.value ∧ n.value ≤ 65535 then .ok (BitVec.ofInt 16 n.value) else .error .outOfRange

/-- BLD_WS `value`: a signed decimal -32768..32767, or 0x0000..0xFFFF (30_encoding.md R75). That a decimal
above 32767 is outside its range, although it fits u16, is a DESIGN CHOICE (notes/assumptions/11.md,
unsafe). -/
def asmValue (n : Number) : Except AsmError U16 :=
  if n.hex then asmU16 n
  else if -32768 ≤ n.value ∧ n.value ≤ 32767 then .ok (valuePattern n.value)
  else .error .outOfRange

/-- A byte list, in index order. No length is an assembly error: a BUF list longer than BUF_MAX assembles,
and the block ends the command with ERR_CMD (30_encoding.md R63). DESIGN CHOICE
(notes/assumptions/11.md, unsafe). -/
def asmBytes : List Number → Except AsmError (List Byte)
  | [] => .ok []
  | n :: ns => do
    let b ← asmU8 n
    let bs ← asmBytes ns
    .ok (b :: bs)

/-- REQ: a byte list of 8 bytes (10_state.md R26). Another length is outside the field width and so an
assembly error; that its name is `outOfRange` is a DESIGN CHOICE (notes/assumptions/11.md, unsafe). -/
def asmReq (ns : List Number) : Except AsmError (Vector Byte 8) := do
  let bs ← asmBytes ns
  if h : bs.toArray.size = 8 then .ok ⟨bs.toArray, h⟩ else .error .outOfRange

/-- The commands of a mnemonic with its operands (30_encoding.md R75, R76). -/
def assembleCommand (mnemonic : String) (ops : List Operand) : Except AsmError (List Instr) :=
  match mnemonic, ops with
  | "CRC_INIT", [] => .ok [.crcInit]
  | "CRC_UPDATE", [.num din] => do .ok [.crcUpdate (← asmU8 din)]
  | "CRC_READ", [] => .ok [.crcRead]
  | "CRC_BLOCK", [.list buf] => do .ok [.crcBlock (← asmBytes buf)]
  | "BLD_RH", [.num slave, .num regaddr] => do .ok [.bldRh (← asmU8 slave) (← asmU16 regaddr)]
  | "BLD_RI", [.num slave, .num regaddr] => do .ok [.bldRi (← asmU8 slave) (← asmU16 regaddr)]
  | "BLD_WS", [.num slave, .num regaddr, .num value] => do
    .ok [.bldWs (← asmU8 slave) (← asmU16 regaddr) (← asmValue value)]
  | "CHK_RD", [.num slave, .num expfc, .num explen, .list buf] => do
    .ok [.chkRd (← asmU8 slave) (← asmU8 expfc) (← asmU8 explen) (← asmBytes buf)]
  | "CHK_WR", [.list req, .list buf] => do .ok [.chkWr (← asmReq req) (← asmBytes buf)]
  | "CHK_RH", [.num slave, .num explen, .list buf] => do
    .ok (expand (.chkRh (← asmU8 slave) (← asmU8 explen) (← asmBytes buf)))
  | "CHK_RI", [.num slave, .num explen, .list buf] => do
    .ok (expand (.chkRi (← asmU8 slave) (← asmU8 explen) (← asmBytes buf)))
  | "CRC_STREAM", [.list bytes] => do .ok (expand (.crcStream (← asmBytes bytes)))
  | _, _ => .error .noSuchCommand

/-- The commands of a line. A line of white space and comment alone stands for none. DESIGN CHOICE
(notes/assumptions/11.md, unsafe). -/
def assemble (line : String) : Except AsmError (List Instr) := do
  match ← tokens line.toList [] [] with
  | [] => .ok []
  | [.word m] => assembleCommand (String.ofList m) []
  | .word m :: ts => do assembleCommand (String.ofList m) (← parseOperands .operand [] ts)
  | _ => .error .badOperands

end Sys2Proof.Machine
end

