-- ==== Sys2Proof/WellFormed.lean ====
section
/-! DEFINITION. Which commands are well formed: the one check that the types of the operand fields do not
already make (10_state.md R26, 30_encoding.md R63). -/

namespace Sys2Proof

/-- The BUF operand of a command that reads BUF (30_encoding.md R60). -/
def Instr.bufOperand : Instr → Option (List Byte)
  | .crcBlock buf => some buf
  | .chkRd _ _ _ buf => some buf
  | .chkWr _ buf => some buf
  | .crcInit => none
  | .crcUpdate _ => none
  | .crcRead => none
  | .bldRh _ _ => none
  | .bldRi _ _ => none
  | .bldWs _ _ _ => none
  | .reserved0 => none
  | .reservedA => none
  | .reservedB => none
  | .reservedC => none
  | .reservedD => none
  | .reservedE => none
  | .reservedF => none

/-- The SLAVE operand of a build command (41_frame_build.md R121). -/
def Instr.buildSlave : Instr → Option Byte
  | .bldRh slave _ => some slave
  | .bldRi slave _ => some slave
  | .bldWs slave _ _ => some slave
  | .crcInit => none
  | .crcUpdate _ => none
  | .crcRead => none
  | .crcBlock _ => none
  | .chkRd _ _ _ _ => none
  | .chkWr _ _ => none
  | .reserved0 => none
  | .reservedA => none
  | .reservedB => none
  | .reservedC => none
  | .reservedD => none
  | .reservedE => none
  | .reservedF => none

/-- The seven reserved rows (30_encoding.md R62). -/
def Instr.isReserved : Instr → Bool
  | .reserved0 => true
  | .reservedA => true
  | .reservedB => true
  | .reservedC => true
  | .reservedD => true
  | .reservedE => true
  | .reservedF => true
  | .crcInit => false
  | .crcUpdate _ => false
  | .crcRead => false
  | .crcBlock _ => false
  | .bldRh _ _ => false
  | .bldRi _ _ => false
  | .bldWs _ _ _ => false
  | .chkRd _ _ _ _ => false
  | .chkWr _ _ => false

/-- A command is malformed when it reads BUF and BUF is longer than BUF_MAX (30_encoding.md R63). A
malformed command still completes, with ERR_CMD. -/
def Instr.wellFormed (cfg : Config) (i : Instr) : Bool :=
  match i.bufOperand with
  | some buf => decide (buf.length ≤ cfg.bufMax)
  | none => true

end Sys2Proof
end

