-- ==== Sys2Proof/Safety.lean ====
section
/-! DEFINITION. The terms in which claims about runs are made: what a result record may look like, the
invariant of a step, which operands a command reads, and what commands do to CRC. Every command
completes (70_reset_and_hazards.md R193), so a safe run is any run. -/

namespace Sys2Proof.Machine

/-- `n` steps, stopping at the first fault or refusal: `Host.Core.run` of this machine
(Laws/Ops.lean, `run_eq_core_run`). -/
def run : Nat → State → Host.Outcome State Fault Refusal
  | 0, s => .next s
  | n + 1, s =>
    match step s with
    | .next t => run n t
    | .fault e => .fault e
    | .refused e => .refused e

/-- A FRAME a build command may have returned: 8 bytes, a legal slave address, one of the three function
codes, the register count 1 in bytes 4-5 of a read request, the checksum of the first six bytes at the
end (30_encoding.md R65-R69). -/
def RequestFrame (f : List Byte) : Prop :=
  f.length = 8 ∧ f = appendCrc (f.take 6) ∧
    (∀ slave ∈ f[0]?, slaveLegal slave = true) ∧
    (f[1]? = some fcReadHolding ∨ f[1]? = some fcReadInput ∨ f[1]? = some fcWriteSingle) ∧
    (f[1]? = some fcReadHolding ∨ f[1]? = some fcReadInput → f[4]? = some 0x00 ∧ f[5]? = some 0x01)

/-- A result record as 10_state.md R27 allows it: at most one field besides STATUS, that one only with
STATUS = OK, a FRAME that is a request frame, a PAYLOAD of at most 255 bytes. -/
def ResultShape (r : Result) : Prop :=
  (∀ f ∈ r.frame, r.status = .ok ∧ r.chk = none ∧ r.payload = none ∧ RequestFrame f) ∧
  (∀ p ∈ r.payload, r.status = .ok ∧ r.chk = none ∧ r.frame = none ∧ p.length ≤ 255) ∧
  (∀ _v ∈ r.chk, r.status = .ok ∧ r.frame = none ∧ r.payload = none)

/-- The invariant of every step: the result record, once there is one, has its shape. -/
def State.Inv (s : State) : Prop := ∀ r ∈ s.result, ResultShape r

/-- The two records agree on the operand fields that the command reads (30_encoding.md R60). -/
def SameOperands (i : Instr) (c d : Command) : Prop :=
  match i with
  | .crcInit => True
  | .crcUpdate _ => c.din = d.din
  | .crcRead => True
  | .crcBlock _ => c.buf = d.buf
  | .bldRh _ _ => c.slave = d.slave ∧ c.regaddr = d.regaddr
  | .bldRi _ _ => c.slave = d.slave ∧ c.regaddr = d.regaddr
  | .bldWs _ _ _ => c.slave = d.slave ∧ c.regaddr = d.regaddr ∧ c.value = d.value
  | .chkRd _ _ _ _ => c.slave = d.slave ∧ c.expfc = d.expfc ∧ c.explen = d.explen ∧ c.buf = d.buf
  | .chkWr _ _ => c.req = d.req ∧ c.buf = d.buf
  | .reserved0 => True
  | .reservedA => True
  | .reservedB => True
  | .reservedC => True
  | .reservedD => True
  | .reservedE => True
  | .reservedF => True

/-- CRC after a command, as 10_state.md R21 with 40_crc.md R105 and R106 gives it. -/
def crcAfter (c : U16) : Instr → U16
  | .crcInit => crcSeed
  | .crcUpdate din => crcStep c din
  | .crcRead => c
  | .crcBlock _ => c
  | .bldRh _ _ => c
  | .bldRi _ _ => c
  | .bldWs _ _ _ => c
  | .chkRd _ _ _ _ => c
  | .chkWr _ _ => c
  | .reserved0 => c
  | .reservedA => c
  | .reservedB => c
  | .reservedC => c
  | .reservedD => c
  | .reservedE => c
  | .reservedF => c

/-- The two commands that write CRC (10_state.md R21). -/
def writesCrc : Instr → Bool
  | .crcInit => true
  | .crcUpdate _ => true
  | .crcRead => false
  | .crcBlock _ => false
  | .bldRh _ _ => false
  | .bldRi _ _ => false
  | .bldWs _ _ _ => false
  | .chkRd _ _ _ _ => false
  | .chkWr _ _ => false
  | .reserved0 => false
  | .reservedA => false
  | .reservedB => false
  | .reservedC => false
  | .reservedD => false
  | .reservedE => false
  | .reservedF => false

/-- The two commands that check a response (42_frame_check.md R142, R143). -/
def checksResponse : Instr → Bool
  | .chkRd _ _ _ _ => true
  | .chkWr _ _ => true
  | .crcInit => false
  | .crcUpdate _ => false
  | .crcRead => false
  | .crcBlock _ => false
  | .bldRh _ _ => false
  | .bldRi _ _ => false
  | .bldWs _ _ _ => false
  | .reserved0 => false
  | .reservedA => false
  | .reservedB => false
  | .reservedC => false
  | .reservedD => false
  | .reservedE => false
  | .reservedF => false

end Sys2Proof.Machine
end

