-- ==== Sys2Proof/Certificates/Slice0/Obligations.lean ====
section
/-! DEFINITION. The statements for the provers. Each docstring names the rules it formalises. -/

open Sys2Proof Sys2Proof.Machine

/-! ## Reset, the step, the command record -/

/-- 10_state.md R30: after reset CRC is 0xFFFF and every field of the result record, STATUS included, is
absent. The command record is an input and has no reset value. -/
def Obligations.ResetLeavesSeedAndNoResult : Prop :=
  State.reset.crc = 0xFFFF ∧ State.reset.result = none

/-- The model's choice: at reset nothing is to be presented (notes/assumptions/3.md); with nothing
presented a step drops the result record (10_state.md R24) and changes nothing else
(notes/assumptions/4.md); a platform reset is an input, which takes only
itself from the inputs and keeps the parameters (notes/assumptions/5.md). That CRC and the result record
after a platform reset are those of State.reset is 70_reset_and_hazards.md R190. -/
def Obligations.IdleAndResetStepsAreTheModelsChoice : Prop :=
  State.reset.pending = [] ∧
  (∀ s : State, s.pending = [] → step s = .next { s with result := none }) ∧
  (∀ (s : State) (rest : List Input), s.pending = .reset :: rest →
    step s = .next { crc := 0xFFFF, result := none, pending := rest, config := s.config })

/-- A step runs the decoded command (00_scope.md R6): the presented record is decoded, taken from the
inputs and performed. A table word is presented the same way. -/
def Obligations.StepRunsTheDecodedCommand : Prop :=
  (∀ (s : State) (c : Command) (rest : List Input), s.pending = .command c :: rest →
    step s = exec (decode c) { s with pending := rest }) ∧
  (∀ (s : State) (nbits w : Nat),
    some (step (s.withFetchWord nbits w)) = (decodeTableWord nbits w).map fun i => exec i s)

/-- 30_encoding.md R60, R61: the command map, all four bits of OP, every record decoded. -/
def Obligations.DecoderFollowsTheCommandMap : Prop :=
  ∀ c : Command,
    (c.op = 0x1 → decode c = .crcInit) ∧
    (c.op = 0x2 → decode c = .crcUpdate c.din) ∧
    (c.op = 0x3 → decode c = .crcRead) ∧
    (c.op = 0x4 → decode c = .crcBlock c.buf) ∧
    (c.op = 0x5 → decode c = .bldRh c.slave c.regaddr) ∧
    (c.op = 0x6 → decode c = .bldRi c.slave c.regaddr) ∧
    (c.op = 0x7 → decode c = .bldWs c.slave c.regaddr c.value) ∧
    (c.op = 0x8 → decode c = .chkRd c.slave c.expfc c.explen c.buf) ∧
    (c.op = 0x9 → decode c = .chkWr c.req c.buf) ∧
    ((c.op = 0x0 ∨ 0xA ≤ c.op.toNat) ↔ (decode c).isReserved = true)

/-- Words of spec/opcode_table.json, one of each family, decode to their rows (30_encoding.md R60). The
table gives the operands no bits: that those of a table word are zero and its BUF is empty is the model's
choice (notes/assumptions/1.md). -/
def Obligations.TableWordsDecodeToTheirRows : Prop :=
  decodeTableWord 8 0x1 = some .crcInit ∧
  decodeTableWord 8 0x4 = some (.crcBlock []) ∧
  decodeTableWord 8 0x6 = some (.bldRi 0 0) ∧
  decodeTableWord 8 0x8 = some (.chkRd 0 0 0 []) ∧
  decodeTableWord 8 0x0 = some .reserved0 ∧
  decodeTableWord 8 0xC = some .reservedC

/-- Decode and encode agree for every command with every operand (30_encoding.md R60), and encoding a
decoded record keeps OP and every operand that the command reads. -/
def Obligations.DecodeOfEncodeIsTheCommand : Prop :=
  (∀ i : Instr, decode (encode i) = i ∧ (encode i).op = opcode i) ∧
  (∀ c : Command, (encode (decode c)).op = c.op ∧ SameOperands (decode c) (encode (decode c)) c)

/-- 10_state.md R26: a field that a command does not read has no effect, whatever its value. -/
def Obligations.UnreadFieldsHaveNoEffect : Prop :=
  ∀ (s : State) (c d : Command) (rest : List Input), d.op = c.op → SameOperands (decode c) d c →
    step { s with pending := .command d :: rest } = step { s with pending := .command c :: rest }

/-- 30_encoding.md R62: a reserved OP completes with ERR_CMD, changes no state and sets no other result
field. -/
def Obligations.ReservedOpcodesEndWithErrCmd : Prop :=
  (∀ i ∈ ([.reserved0, .reservedA, .reservedB, .reservedC, .reservedD, .reservedE, .reservedF] :
      List Instr),
    ∀ s : State, exec i s = .next { s with
      result := some { status := .errCmd, chk := none, frame := none, payload := none } }) ∧
  (∀ (c : Command) (s : State), c.op = 0x0 ∨ 0xA ≤ c.op.toNat →
    exec (decode c) s = .next { s with
      result := some { status := .errCmd, chk := none, frame := none, payload := none } })

/-- 30_encoding.md R63: an over-long BUF ends with ERR_CMD on a command that reads BUF and is ignored by
one that does not. -/
def Obligations.OverlongBufMattersOnlyWhereBufIsRead : Prop :=
  (∀ (c : Command) (buf : List Byte) (s : State), (decode c).bufOperand = some buf →
    s.config.bufMax < buf.length →
    exec (decode c) s = .next { s with
      result := some { status := .errCmd, chk := none, frame := none, payload := none } }) ∧
  (∀ (c : Command) (buf : List Byte), (decode c).bufOperand = none →
    decode { c with buf := buf } = decode c)

/-- 00_scope.md R8: BUF_MAX is at least 260, 260 by default, and no read response that the block could
accept is cut off. -/
def Obligations.NoAcceptableReadResponseIsCutOff : Prop :=
  (∀ cfg : Config, 260 ≤ cfg.bufMax) ∧
  State.reset.config.bufMax = 260 ∧
  (∀ (cfg : Config) (b : List Byte) (slave fc len : Byte), readRespOk b slave fc len = true →
    b.length ≤ 260 ∧ bufTooLong cfg b = false)

/-! ## The checksum generator -/

/-- 40_crc.md R100, written out: the XOR into the low byte, then eight times a logical shift right, with
the XOR of 0xA001 after the shift if the low bit was 1. -/
def Obligations.CrcStepIsEightShiftsLowBitFirst : Prop :=
  ∀ (c : U16) (b : Byte) (bit : U16 → U16),
    (∀ x : U16, bit x = if x[0] = true then (x >>> 1) ^^^ 0xA001 else x >>> 1) →
    crcStep c b = bit (bit (bit (bit (bit (bit (bit (bit (c ^^^ b.setWidth 16)))))))) ∧
    (c ^^^ b.setWidth 16).extractLsb' 8 8 = c.extractLsb' 8 8

/-- What rests on 40_crc.md R100: a step is linear over XOR, and one-to-one in the register and in the
byte. The spec states none of this. -/
def Obligations.CrcStepIsLinearAndOneToOne : Prop :=
  (∀ (c d : U16) (a b : Byte), crcStep (c ^^^ d) (a ^^^ b) = crcStep c a ^^^ crcStep d b) ∧
  (∀ (c d : U16) (b : Byte), crcStep c b = crcStep d b → c = d) ∧
  (∀ (c : U16) (a b : Byte), crcStep c a = crcStep c b → a = b)

/-- 40_crc.md R101: `crc16` starts from 0xFFFF and folds the bytes in index order. -/
def Obligations.CrcOfASequenceFoldsInIndexOrder : Prop :=
  crc16 [] = 0xFFFF ∧
  ∀ (s : List Byte) (b : Byte), crc16 (s ++ [b]) = crcStep (crc16 s) b

/-- 20_memory.md R43: the checksum field of a frame holds the CRC value of the bytes before it, low byte
first, and these are the bytes of `be16(checksum)`. -/
def Obligations.ChecksumFieldIsLowByteFirst : Prop :=
  ∀ s : List Byte,
    (appendCrc s).length = s.length + 2 ∧ (appendCrc s).take s.length = s ∧
    (appendCrc s)[s.length]? = some ((crc16 s).extractLsb' 0 8) ∧
    (appendCrc s)[s.length + 1]? = some ((crc16 s).extractLsb' 8 8) ∧
    be16 (checksum s) = [(crc16 s).extractLsb' 0 8, (crc16 s).extractLsb' 8 8]

/-- 40_crc.md R110, which the spec marks as derived: the checksum of a built frame without its last two
bytes gives these two bytes. -/
def Obligations.ChecksumRoundTripOnBuiltFrames : Prop :=
  ∀ s f : List Byte, f = appendCrc s →
    be16 (checksum (f.take (f.length - 2))) = f.drop (f.length - 2)

/-- 40_crc.md R105: CRC_INIT. -/
def Obligations.CrcInitWritesTheSeed : Prop :=
  (∀ c : Command, c.op = 0x1 → decode c = .crcInit) ∧
  (∀ s : State, exec .crcInit s = .next { s with
    crc := 0xFFFF
    result := some { status := .ok, chk := none, frame := none, payload := none } }) ∧
  (∀ s t : State, exec .crcInit s = .next t → exec .crcInit t = .next t) ∧
  (∀ s t : State, s.crc = State.reset.crc → exec .crcInit s = .next t → t.crc = s.crc)

/-- 40_crc.md R106: CRC_UPDATE. -/
def Obligations.CrcUpdateFoldsOneByte : Prop :=
  (∀ c : Command, c.op = 0x2 → decode c = .crcUpdate c.din) ∧
  (∀ (s : State) (din : Byte), exec (.crcUpdate din) s = .next { s with
    crc := crcStep s.crc din
    result := some { status := .ok, chk := none, frame := none, payload := none } }) ∧
  (∀ (s : State) (din : Byte), ∃ t u, exec (.crcUpdate din) s = .next t ∧
    exec (.crcUpdate din) t = .next u ∧ u.crc = crcStep (crcStep s.crc din) din) ∧
  crcStep 0x0000 0x00 = 0x0000 ∧ crcStep 0xFFFF 0xFF = 0x00FF ∧ crcStep 0xFFFF 0x01 = 0x807E

/-- 40_crc.md R107: CRC_READ. -/
def Obligations.CrcReadReturnsTheSwappedRegister : Prop :=
  (∀ c : Command, c.op = 0x3 → decode c = .crcRead) ∧
  (∀ s : State, exec .crcRead s = .next { s with
    result := some { status := .ok, chk := some (swap16 s.crc), frame := none, payload := none } }) ∧
  (∀ v : U16, swap16 v = (v.extractLsb' 0 8).setWidth 16 <<< 8 ||| (v.extractLsb' 8 8).setWidth 16) ∧
  swap16 State.reset.crc = 0xFFFF ∧
  (∀ v : U16, swap16 (swap16 v) = v) ∧
  (∀ v : U16, be16 (swap16 v) = [v.extractLsb' 0 8, v.extractLsb' 8 8]) ∧
  swap16 0x0A84 = 0x840A

/-- 40_crc.md R108: CRC_BLOCK. -/
def Obligations.CrcBlockReturnsTheChecksum : Prop :=
  (∀ c : Command, c.op = 0x4 → decode c = .crcBlock c.buf) ∧
  (∀ (s : State) (buf : List Byte), buf.length ≤ s.config.bufMax →
    exec (.crcBlock buf) s = .next { s with
      result := some { status := .ok, chk := some (swap16 (crc16 buf)), frame := none, payload := none } }) ∧
  (∀ (s : State) (buf : List Byte), s.config.bufMax < buf.length →
    exec (.crcBlock buf) s = .next { s with
      result := some { status := .errCmd, chk := none, frame := none, payload := none } }) ∧
  swap16 (crc16 []) = 0xFFFF ∧ swap16 (crc16 [0xFF]) = 0xFF00 ∧
  swap16 (crc16 [0x01, 0x03, 0x00, 0x00, 0x00, 0x01]) = 0x840A ∧
  (∀ s f : List Byte, f = appendCrc s →
    be16 (swap16 (crc16 (f.take (f.length - 2)))) = f.drop (f.length - 2))

/-- 40_crc.md R109, which the spec marks as derived: a frame with an intact checksum leaves the CRC value
at zero, and a host that streams all of its bytes, checksum included, reads CHK = 0x0000. -/
def Obligations.IntactFrameLeavesResidueZero : Prop :=
  (∀ s : List Byte, crc16 (appendCrc s) = 0x0000) ∧
  (∀ (s : State) (bytes : List Byte), s.pending = [] →
    ∃ t, run (bytes.length + 4)
        (s.present ((expand (.crcStream (appendCrc bytes))).map encode)) = .next t ∧
      t.crc = 0x0000 ∧
      t.result = some { status := .ok, chk := some 0x0000, frame := none, payload := none })

/-- 30_encoding.md R76 with the clause it marks as derived: a CRC_STREAM ends with the CHK of the
CRC_BLOCK of the same bytes, and leaves CRC holding their unswapped CRC value, from any state. -/
def Obligations.StreamedChecksumEqualsBlockChecksum : Prop :=
  ∀ (s : State) (bytes : List Byte), s.pending = [] →
    ∃ t, run (bytes.length + 2) (s.present ((expand (.crcStream bytes)).map encode)) = .next t ∧
      t.crc = crc16 bytes ∧ t.pending = [] ∧
      t.result = some { status := .ok, chk := some (checksum bytes), frame := none, payload := none } ∧
      (bytes.length ≤ s.config.bufMax →
        ∃ u, exec (.crcBlock bytes) s = .next u ∧ u.result = t.result ∧ u.crc = s.crc)

/-- What rests on 20_memory.md R48 and 10_state.md R21: commands take effect one at a time, in the order
presented, and after any number of them CRC is what these have left. -/
def Obligations.CommandsTakeEffectInTheOrderPresented : Prop :=
  ∀ (s : State) (first later : List Command), s.pending = [] →
    ∃ t, run first.length (s.present (first ++ later)) = .next t ∧
      t.pending = later.map .command ∧ t.config = s.config ∧
      t.crc = (first.map decode).foldl crcAfter s.crc

/-- What rests on 70_reset_and_hazards.md R194: whatever commands that do not write CRC stand inside a
streaming sequence, its CRC_READ returns the checksum of the streamed bytes. -/
def Obligations.InterleavedCommandsDoNotDisturbAStream : Prop :=
  ∀ (s : State) (inside : List Instr) (bytes : List Byte), s.pending = [] →
    inside.filter writesCrc = bytes.map .crcUpdate →
    ∃ t, run (inside.length + 2)
        (s.present ((Instr.crcInit :: (inside ++ [Instr.crcRead])).map encode)) = .next t ∧
      t.crc = crc16 bytes ∧
      t.result = some { status := .ok, chk := some (checksum bytes), frame := none, payload := none }

/-! ## The serializer -/

/-- 41_frame_build.md R120: the eight bytes of `build_frame`. -/
def Obligations.BuildFrameLayout : Prop :=
  ∀ (slave fc : Byte) (w1 w2 : U16) (head : List Byte),
    head = [slave, fc, w1.extractLsb' 8 8, w1.extractLsb' 0 8, w2.extractLsb' 8 8, w2.extractLsb' 0 8] →
    buildFrame slave fc w1 w2 = head ++ [(crc16 head).extractLsb' 0 8, (crc16 head).extractLsb' 8 8]

/-- 41_frame_build.md R122: BLD_RH. -/
def Obligations.ReadHoldingRequestIsBuilt : Prop :=
  (∀ c : Command, c.op = 0x5 → decode c = .bldRh c.slave c.regaddr) ∧
  (∀ (s : State) (slave : Byte) (regaddr : U16), 1 ≤ slave.toNat → slave.toNat ≤ 247 →
    exec (.bldRh slave regaddr) s = .next { s with
      result := some { status := .ok, chk := none, frame := some (buildFrame slave 3 regaddr 0x0001), payload := none } }) ∧
  (∀ (s : State) (slave : Byte) (regaddr : U16), slave = 0 ∨ 247 < slave.toNat →
    exec (.bldRh slave regaddr) s = .next { s with
      result := some { status := .errAddr, chk := none, frame := none, payload := none } }) ∧
  (∀ (slave : Byte) (regaddr : U16), (buildFrame slave 3 regaddr 0x0001)[4]? = some 0x00 ∧
    (buildFrame slave 3 regaddr 0x0001)[5]? = some 0x01) ∧
  buildFrame 1 3 0x0000 0x0001 = [0x01, 0x03, 0x00, 0x00, 0x00, 0x01, 0x84, 0x0A]

/-- 41_frame_build.md R123: BLD_RI, and how its frame differs from that of BLD_RH. -/
def Obligations.ReadInputRequestIsBuilt : Prop :=
  (∀ c : Command, c.op = 0x6 → decode c = .bldRi c.slave c.regaddr) ∧
  (∀ (s : State) (slave : Byte) (regaddr : U16), 1 ≤ slave.toNat → slave.toNat ≤ 247 →
    exec (.bldRi slave regaddr) s = .next { s with
      result := some { status := .ok, chk := none, frame := some (buildFrame slave 4 regaddr 0x0001), payload := none } }) ∧
  (∀ (s : State) (slave : Byte) (regaddr : U16), slave = 0 ∨ 247 < slave.toNat →
    exec (.bldRi slave regaddr) s = .next { s with
      result := some { status := .errAddr, chk := none, frame := none, payload := none } }) ∧
  (∀ (slave : Byte) (regaddr : U16) (rh ri : List Byte), rh = buildFrame slave 3 regaddr 0x0001 →
    ri = buildFrame slave 4 regaddr 0x0001 →
    ri.take 1 = rh.take 1 ∧ ri[1]? ≠ rh[1]? ∧ (ri.drop 2).take 4 = (rh.drop 2).take 4 ∧
      ri.drop 6 ≠ rh.drop 6 ∧ ri[4]? = some 0x00 ∧ ri[5]? = some 0x01) ∧
  buildFrame 5 4 0xD010 0x0001 = [0x05, 0x04, 0xD0, 0x10, 0x00, 0x01, 0x09, 0x4B]

/-- 41_frame_build.md R124: BLD_WS. Every value is accepted. -/
def Obligations.WriteRequestIsBuilt : Prop :=
  (∀ c : Command, c.op = 0x7 → decode c = .bldWs c.slave c.regaddr c.value) ∧
  (∀ (s : State) (slave : Byte) (regaddr value : U16), 1 ≤ slave.toNat → slave.toNat ≤ 247 →
    exec (.bldWs slave regaddr value) s = .next { s with
      result := some { status := .ok, chk := none, frame := some (buildFrame slave 6 regaddr value), payload := none } }) ∧
  (∀ (s : State) (slave : Byte) (regaddr value : U16), slave = 0 ∨ 247 < slave.toNat →
    exec (.bldWs slave regaddr value) s = .next { s with
      result := some { status := .errAddr, chk := none, frame := none, payload := none } }) ∧
  (∀ (slave : Byte) (regaddr : U16),
    ((buildFrame slave 6 regaddr 0xFFFF).drop 4).take 2 = [0xFF, 0xFF] ∧
    ((buildFrame slave 6 regaddr 0x8000).drop 4).take 2 = [0x80, 0x00] ∧
    ((buildFrame slave 6 regaddr 0x7FFF).drop 4).take 2 = [0x7F, 0xFF]) ∧
  buildFrame 5 6 0x0101 0x0014 = [0x05, 0x06, 0x01, 0x01, 0x00, 0x14, 0xD8, 0x7D]

/-- 20_memory.md R42: the 16-bit fields of a request frame are big-endian, so reading them back gives the
register address, the count and the value. -/
def Obligations.RequestFieldsReadBackBigEndian : Prop :=
  (∀ v : U16, be16 v = [v.extractLsb' 8 8, v.extractLsb' 0 8]) ∧
  ∀ (slave fc : Byte) (regaddr w : U16),
    rd16be (buildFrame slave fc regaddr w) 2 = some regaddr ∧
    rd16be (buildFrame slave fc regaddr w) 4 = some w

/-- What rests on 30_encoding.md R73 and 00_scope.md R10: a signed value is supplied as its pattern, and
the pattern read from bytes 4-5 of the frame as a signed number is the value again. -/
def Obligations.SignedValueSurvivesTheWriteFrame : Prop :=
  ∀ (s : State) (slave : Byte) (regaddr : U16) (v : Int), 1 ≤ slave.toNat → slave.toNat ≤ 247 →
    -32768 ≤ v → v ≤ 32767 →
    ∃ t f, exec (.bldWs slave regaddr (valuePattern v)) s = .next t ∧
      t.result = some { status := .ok, chk := none, frame := some f, payload := none } ∧
      (rd16be f 4).map BitVec.toInt = some v

/-! ## The deserializer -/

/-- 42_frame_check.md R140: `read_resp_ok` is the conjunction of (a) to (f). -/
def Obligations.ReadValidationIsTheSixConditions : Prop :=
  ∀ (b : List Byte) (slave fc len : Byte),
    readRespOk b slave fc len = true ↔
      (b.length = len.toNat + 5 ∧
        (b[b.length - 2]? = some ((crc16 (b.take (b.length - 2))).extractLsb' 0 8) ∧
          b[b.length - 1]? = some ((crc16 (b.take (b.length - 2))).extractLsb' 8 8)) ∧
        b[0]? = some slave ∧ b[1]? = some fc ∧ b[2]? = some len ∧
        (∃ declared, b[2]? = some declared ∧ 2 + declared.toNat < b.length - 2))

/-- 42_frame_check.md R142: CHK_RD. -/
def Obligations.ReadCheckDeliversThePayload : Prop :=
  (∀ c : Command, c.op = 0x8 → decode c = .chkRd c.slave c.expfc c.explen c.buf) ∧
  (∀ (s : State) (slave expfc explen : Byte) (buf : List Byte),
    (s.config.bufMax < buf.length → exec (.chkRd slave expfc explen buf) s = .next { s with
      result := some { status := .errCmd, chk := none, frame := none, payload := none } }) ∧
    (buf.length ≤ s.config.bufMax → readRespOk buf slave expfc explen = true →
      exec (.chkRd slave expfc explen buf) s = .next { s with
        result := some { status := .ok, chk := none, frame := none, payload := some ((buf.drop 3).take explen.toNat) } }) ∧
    (buf.length ≤ s.config.bufMax → readRespOk buf slave expfc explen = false →
      exec (.chkRd slave expfc explen buf) s = .next { s with
        result := some { status := .reject, chk := none, frame := none, payload := none } })) ∧
  (∀ slave expfc explen : Byte, readRespOk [] slave expfc explen = false) ∧
  (∀ (buf : List Byte) (slave expfc explen : Byte), buf[0]? ≠ some slave →
    readRespOk buf slave expfc explen = false) ∧
  (∀ (buf : List Byte) (slave expfc explen : Byte), buf.length ≠ explen.toNat + 5 →
    readRespOk buf slave expfc explen = false) ∧
  (∀ (buf : List Byte) (slave expfc explen : Byte), buf[1]? ≠ some expfc →
    readRespOk buf slave expfc explen = false) ∧
  (∀ slave expfc : Byte, readRespOk (appendCrc [slave, expfc, 0]) slave expfc 0 = true) ∧
  readRespOk [0x0A, 0x04, 0x02, 0x00, 0xC8, 0x1D, 0x67] 10 4 2 = true

/-- What rests on 30_encoding.md R70 and 42_frame_check.md R140, R145 together: for any expected values,
CHK_RD accepts exactly the read response frames of R70 and delivers their payload; every other BUF that
fits the port is rejected. -/
def Obligations.ReadCheckAcceptsExactlyTheResponseFrames : Prop :=
  ∀ (s : State) (slave expfc explen : Byte),
    (∀ payload : List Byte, payload.length = explen.toNat →
      exec (.chkRd slave expfc explen (readResponse slave expfc payload)) s = .next { s with
        result := some { status := .ok, chk := none, frame := none, payload := some payload } }) ∧
    (∀ buf : List Byte, buf.length ≤ s.config.bufMax →
      (¬ ∃ payload : List Byte, payload.length = explen.toNat ∧
        buf = readResponse slave expfc payload) →
      exec (.chkRd slave expfc explen buf) s = .next { s with
        result := some { status := .reject, chk := none, frame := none, payload := none } })

/-- What rests on 40_crc.md R100, R101 and 42_frame_check.md R140, as the source's demand in 40_crc.md R111:
an accepted read response is rejected once any one of its bytes is changed to another value. -/
def Obligations.AnyChangedByteOfAReadResponseIsRejected : Prop :=
  ∀ (s : State) (slave expfc explen : Byte) (buf : List Byte) (k : Nat) (b : Byte),
    readRespOk buf slave expfc explen = true → k < buf.length → buf[k]? ≠ some b →
    exec (.chkRd slave expfc explen (buf.set k b)) s = .next { s with
      result := some { status := .reject, chk := none, frame := none, payload := none } }

/-- 42_frame_check.md R143: CHK_WR, an exact echo or REJECT. -/
def Obligations.WriteCheckAcceptsExactlyTheEcho : Prop :=
  (∀ c : Command, c.op = 0x9 → decode c = .chkWr c.req c.buf) ∧
  (∀ (s : State) (req : Vector Byte 8) (buf : List Byte),
    (s.config.bufMax < buf.length → exec (.chkWr req buf) s = .next { s with
      result := some { status := .errCmd, chk := none, frame := none, payload := none } }) ∧
    (exec (.chkWr req req.toList) s = .next { s with
      result := some { status := .ok, chk := none, frame := none, payload := none } }) ∧
    (buf.length ≤ s.config.bufMax → buf ≠ req.toList → exec (.chkWr req buf) s = .next { s with
      result := some { status := .reject, chk := none, frame := none, payload := none } }) ∧
    (buf.length ≤ s.config.bufMax → buf.length ≠ 8 → exec (.chkWr req buf) s = .next { s with
      result := some { status := .reject, chk := none, frame := none, payload := none } }))

/-- 42_frame_check.md R141: `write_echo_ok` is equality of length and of every byte. -/
def Obligations.WriteValidationIsEquality : Prop :=
  ∀ req b : List Byte, writeEchoOk req b = true ↔
    b.length = req.length ∧ ∀ i, i < req.length → b[i]? = req[i]?

/-- What rests on 41_frame_build.md R124, 42_frame_check.md R141, R143: the frame that BLD_WS returns,
given to CHK_WR as REQ, is echoed by itself alone, and an echo that is accepted carries a valid
checksum. -/
def Obligations.BuiltWriteRequestIsEchoedByItselfAlone : Prop :=
  ∀ (s : State) (slave : Byte) (regaddr value : U16), 1 ≤ slave.toNat → slave.toNat ≤ 247 →
    ∃ t f, exec (.bldWs slave regaddr value) s = .next t ∧
      t.result = some { status := .ok, chk := none, frame := some f, payload := none } ∧
      (∃ req : Vector Byte 8, req.toList = f) ∧
      ∀ (req : Vector Byte 8) (buf : List Byte), req.toList = f → buf.length ≤ t.config.bufMax →
        ∃ u, exec (.chkWr req buf) t = .next u ∧
          (u.result = some { status := .ok, chk := none, frame := none, payload := none } ↔ buf = f) ∧
          (u.result = some { status := .ok, chk := none, frame := none, payload := none } →
            crc16 buf = 0x0000)

/-- 42_frame_check.md R144: a REJECT carries no reason, whichever condition failed. -/
def Obligations.RejectCarriesNoReason : Prop :=
  ∀ (i : Instr) (s : State), ∃ t r, exec i s = .next t ∧ t.result = some r ∧
    (r.status = .reject → checksResponse i = true ∧ t = { s with
      result := some { status := .reject, chk := none, frame := none, payload := none } })

/-! ## Results, errors, and what commands leave unchanged -/

/-- What rests on 30_encoding.md R64: the STATUS values, and which commands can set them. -/
def Obligations.StatusEncodingAndWhoSetsIt : Prop :=
  (Status.ok.code = 0 ∧ Status.reject.code = 1 ∧ Status.errAddr.code = 2 ∧ Status.errCmd.code = 3) ∧
  (∀ v : BitVec 2, (Status.ofCode v).code = v) ∧
  (∀ (i : Instr) (s : State), ∃ t r, exec i s = .next t ∧ t.result = some r ∧
    Status.ofCode r.status.code = r.status ∧
    (r.status = .ok → i.isReserved = false) ∧
    (r.status = .reject → checksResponse i = true) ∧
    (r.status = .errAddr → i.buildSlave.isSome = true ∧ r.frame = none) ∧
    (r.status = .errCmd → i.isReserved = true ∨ i.wellFormed s.config = false))

/-- 10_state.md R27: which result field which command sets, with its length. -/
def Obligations.ResultFieldsAreSetByTheirCommands : Prop :=
  ∀ (i : Instr) (s : State), ∃ t r, exec i s = .next t ∧ t.result = some r ∧
    (r.chk.isSome = true ↔
      i = .crcRead ∨ ∃ buf, i = .crcBlock buf ∧ buf.length ≤ s.config.bufMax) ∧
    (r.frame.isSome = true ↔ i.buildSlave.isSome = true ∧ r.status = .ok) ∧
    (∀ f, r.frame = some f → f.length = 8) ∧
    (r.payload.isSome = true ↔
      (∃ slave expfc explen buf, i = .chkRd slave expfc explen buf) ∧ r.status = .ok) ∧
    (∀ slave expfc explen buf p, i = .chkRd slave expfc explen buf → r.payload = some p →
      p.length = explen.toNat)

/-- 60_exceptions.md R161: ERR_ADDR exactly for a build command with SLAVE 0 or 248..255; STATUS is the
only field set. -/
def Obligations.ErrAddrExactlyForIllegalBuildAddress : Prop :=
  ∀ (i : Instr) (s : State), ∃ t r, exec i s = .next t ∧ t.result = some r ∧
    (r.status = .errAddr ↔ ∃ slave, i.buildSlave = some slave ∧ (slave = 0 ∨ 248 ≤ slave.toNat)) ∧
    (r.status = .errAddr → r.chk = none ∧ r.frame = none ∧ r.payload = none)

/-- 60_exceptions.md R162: the two causes of ERR_CMD, and no recorded value. -/
def Obligations.ErrCmdExactlyForItsTwoCauses : Prop :=
  ∀ (c : Command) (s : State), ∃ t r, exec (decode c) s = .next t ∧ t.result = some r ∧
    (r.status = .errCmd ↔
      (c.op = 0x0 ∨ 0xA ≤ c.op.toNat) ∨
      ((c.op = 0x4 ∨ c.op = 0x8 ∨ c.op = 0x9) ∧ s.config.bufMax < c.buf.length)) ∧
    (r.status = .errCmd → r.chk = none ∧ r.frame = none ∧ r.payload = none)

/-- 60_exceptions.md R164: a command that ends with an error writes no state, sets STATUS only, and every
command after it does what it would have done without it. -/
def Obligations.ErrorsWriteNoStateAndDoNotLast : Prop :=
  ∀ (i : Instr) (s : State), ∃ t r, exec i s = .next t ∧ t.result = some r ∧
    (r.status = .errAddr ∨ r.status = .errCmd →
      t = { s with result := some { status := r.status, chk := none, frame := none, payload := none } } ∧
      ∀ j : Instr, exec j t = exec j s)

/-- 60_exceptions.md R166: the order in which the conditions are reported. -/
def Obligations.ConditionsAreReportedInOrder : Prop :=
  ∀ (i : Instr) (s : State), ∃ t r, exec i s = .next t ∧ t.result = some r ∧
    (i.isReserved = true → r.status = .errCmd) ∧
    (i.isReserved = false → i.wellFormed s.config = false → r.status = .errCmd) ∧
    (i.isReserved = false → i.wellFormed s.config = true →
      (∃ slave, i.buildSlave = some slave ∧ (slave = 0 ∨ 247 < slave.toNat)) → r.status = .errAddr) ∧
    (i.isReserved = false → i.wellFormed s.config = true →
      (¬ ∃ slave, i.buildSlave = some slave ∧ (slave = 0 ∨ 247 < slave.toNat)) →
      r.status = .ok ∨ r.status = .reject) ∧
    (i.buildSlave.isSome = true → i.bufOperand = none)

/-- What rests on 60_exceptions.md R160 and 70_reset_and_hazards.md R193: every step of the block
completes, and a presented command leaves a result record of its own, the same whatever record stood
there before, and is taken from the inputs. That a step with nothing presented also answers is the model's
choice (notes/assumptions/4.md). -/
def Obligations.EveryCommandCompletes : Prop :=
  (∀ s : State, ∃ t, step s = .next t) ∧
  (∀ (s : State) (c : Command) (rest : List Input), s.pending = .command c :: rest →
    ∃ t r, step s = .next t ∧ t.result = some r ∧ t.pending = rest ∧ t.config = s.config ∧
      ∀ before : Option Result, step { s with result := before } = .next t)

/-- 10_state.md R21: who writes CRC and who reads it, and its reset value. -/
def Obligations.CrcRegisterAccess : Prop :=
  State.reset.crc = 0xFFFF ∧
  (∀ (i : Instr) (s : State), ∃ t, exec i s = .next t ∧ t.crc = crcAfter s.crc i ∧
    (i ≠ .crcInit → (∀ din, i ≠ .crcUpdate din) → t.crc = s.crc)) ∧
  (∀ (i : Instr) (s : State) (v : U16), i ≠ .crcRead → (∀ din, i ≠ .crcUpdate din) →
    ∃ t u, exec i s = .next t ∧ exec i { s with crc := v } = .next u ∧ u.result = t.result ∧
      (i = .crcInit → u = t))

/-- What rests on 20_memory.md R46: all commands but CRC_UPDATE are idempotent, and all but CRC_INIT and
CRC_UPDATE change nothing except the result record. -/
def Obligations.OnlyCrcUpdateIsNotIdempotent : Prop :=
  (∀ (i : Instr) (s : State), (∀ din, i ≠ .crcUpdate din) →
    ∃ t, exec i s = .next t ∧ exec i t = .next t ∧
      (i ≠ .crcInit → t = { s with result := t.result })) ∧
  (∃ (s t u : State) (din : Byte), exec (.crcUpdate din) s = .next t ∧
    exec (.crcUpdate din) t = .next u ∧ u.crc ≠ t.crc)

/-- What rests on 10_state.md R20 and 20_memory.md R53: no command depends on the result of an earlier
one, so nothing but CRC reaches a later command. -/
def Obligations.NothingButCrcSurvivesACommand : Prop :=
  ∀ (i j : Instr) (s : State), ∃ t, exec i s = .next t ∧
    exec j t = exec j { s with crc := crcAfter s.crc i }

/-- What rests on 10_state.md R24: a result record, and STATUS with it, stands only where the step just
taken performed a command; a step that performs none leaves no record (for an idle step and a platform
reset this rests on notes/assumptions/4.md and 5.md), and no step depends on the record before. -/
def Obligations.StatusIsNotKeptAfterTheCommand : Prop :=
  ∀ s : State, ∃ t, step s = .next t ∧
    (t.result.isSome = true ↔ ∃ c rest, s.pending = .command c :: rest) ∧
    ∀ before : Option Result, step { s with result := before } = .next t

/-! ## The invariant -/

/-- From every state whose result record has its shape (10_state.md R27), a step gives such a state. For
an idle step and a platform reset this rests on notes/assumptions/4.md and 5.md. -/
def Obligations.StepKeepsTheResultShape : Prop :=
  ∀ s t : State, s.Inv → step s = .next t → t.Inv

/-- The invariant holds at reset. -/
def Obligations.ResetHasTheResultShape : Prop := State.reset.Inv

/-! ## The assembler -/

/-- What rests on 30_encoding.md R75: an operand is assembled exactly when it is in its field, and to its
own value; outside it is an assembly error, never truncated. BLD_WS `value` is signed in decimal and a u16
in hexadecimal. A byte list is assembled exactly when each of its numbers is a u8, REQ exactly when it has
8 bytes as well. The model's choice (notes/assumptions/11.md): a decimal BLD_WS `value` above 32767 is out
of range, no length of a BUF list is an error, and a REQ list of another length has the error
`outOfRange`. -/
def Obligations.AssemblerNeverTruncates : Prop :=
  (∀ (n : Number) (b : Byte), asmU8 n = .ok b ↔ n.value = (b.toNat : Int)) ∧
  (∀ (n : Number) (v : U16), asmU16 n = .ok v ↔ n.value = (v.toNat : Int)) ∧
  (∀ (n : Number) (v : U16), n.hex = false → (asmValue n = .ok v ↔ n.value = v.toInt)) ∧
  (∀ n : Number, n.value < 0 ∨ 255 < n.value → asmU8 n = .error .outOfRange) ∧
  (∀ n : Number, n.value < 0 ∨ 65535 < n.value → asmU16 n = .error .outOfRange) ∧
  (∀ n : Number, n.hex = false → n.value < -32768 ∨ 32767 < n.value →
    asmValue n = .error .outOfRange) ∧
  (∀ (n : Number) (v : U16), n.hex = true → (asmValue n = .ok v ↔ n.value = (v.toNat : Int))) ∧
  (∀ n : Number, n.hex = true → n.value < 0 ∨ 65535 < n.value → asmValue n = .error .outOfRange) ∧
  (∀ (ns : List Number) (bs : List Byte),
    asmBytes ns = .ok bs ↔ ns.map Number.value = bs.map fun b => (b.toNat : Int)) ∧
  (∀ ns : List Number, (∃ n ∈ ns, n.value < 0 ∨ 255 < n.value) → asmBytes ns = .error .outOfRange) ∧
  (∀ (ns : List Number) (req : Vector Byte 8),
    asmReq ns = .ok req ↔ ns.map Number.value = req.toList.map fun b => (b.toNat : Int)) ∧
  (∀ ns : List Number, ns.length ≠ 8 ∨ (∃ n ∈ ns, n.value < 0 ∨ 255 < n.value) →
    asmReq ns = .error .outOfRange)

/-- What rests on 30_encoding.md R76: the expansions of the pseudo-instructions. -/
def Obligations.PseudoInstructionsExpand : Prop :=
  (∀ (slave explen : Byte) (buf : List Byte),
    expand (.chkRh slave explen buf) = [.chkRd slave 3 explen buf] ∧
    expand (.chkRi slave explen buf) = [.chkRd slave 4 explen buf]) ∧
  (∀ bytes : List Byte,
    expand (.crcStream bytes) = .crcInit :: (bytes.map .crcUpdate ++ [.crcRead]))
end

