-- ==== Sys2Proof/Laws/State.lean ====
section
/-! SUPPORT. One lemma per field per update of State, so that no proof unfolds a record update. -/

namespace Sys2Proof.Machine

variable (s : State) (v : U16) (r : Result) (cs : List Command) (nbits w : Nat)

@[simp] theorem State.setCrc_crc : (s.setCrc v).crc = v := rfl
@[simp] theorem State.setCrc_result : (s.setCrc v).result = s.result := rfl
@[simp] theorem State.setCrc_pending : (s.setCrc v).pending = s.pending := rfl
@[simp] theorem State.setCrc_config : (s.setCrc v).config = s.config := rfl

@[simp] theorem State.setResult_crc : (s.setResult r).crc = s.crc := rfl
@[simp] theorem State.setResult_result : (s.setResult r).result = some r := rfl
@[simp] theorem State.setResult_pending : (s.setResult r).pending = s.pending := rfl
@[simp] theorem State.setResult_config : (s.setResult r).config = s.config := rfl

@[simp] theorem State.present_crc : (s.present cs).crc = s.crc := rfl
@[simp] theorem State.present_result : (s.present cs).result = s.result := rfl
@[simp] theorem State.present_pending : (s.present cs).pending = s.pending ++ cs.map .command := rfl
@[simp] theorem State.present_config : (s.present cs).config = s.config := rfl

@[simp] theorem State.withFetchWord_crc : (s.withFetchWord nbits w).crc = s.crc := rfl
@[simp] theorem State.withFetchWord_result : (s.withFetchWord nbits w).result = s.result := rfl
@[simp] theorem State.withFetchWord_pending :
    (s.withFetchWord nbits w).pending = .command (commandOfWord w) :: s.pending := rfl
@[simp] theorem State.withFetchWord_config : (s.withFetchWord nbits w).config = s.config := rfl

@[simp] theorem State.reset_crc : State.reset.crc = 0xFFFF := rfl
@[simp] theorem State.reset_result : State.reset.result = none := rfl
@[simp] theorem State.reset_pending : State.reset.pending = [] := rfl
@[simp] theorem State.reset_config : State.reset.config = Config.default := rfl

/-- A state that differs from another in its result only becomes the same state with the same result. -/
@[simp] theorem State.setResult_setResult (q : Result) :
    (s.setResult q).setResult r = s.setResult r := rfl

end Sys2Proof.Machine
end

