-- ==== Sys2Proof/Laws/Ops.lean ====
section
/-! SUPPORT. For each shared operation, what it can do. -/

namespace Sys2Proof.Machine

/-! ## The end of a command -/

@[simp] theorem complete_eq_next (r : Result) (s t : State) :
    complete r s = .next t ↔ t = s.setResult r := by
  simp [complete, eq_comm]

@[simp] theorem raise_eq_next (e : ErrorCode) (s t : State) :
    raise e s = .next t ↔ t = s.setResult (Result.statusOnly e.status) := by
  simp [raise]

@[simp] theorem Result.statusOnly_status (st : Status) : (Result.statusOnly st).status = st := rfl
@[simp] theorem Result.statusOnly_chk (st : Status) : (Result.statusOnly st).chk = none := rfl
@[simp] theorem Result.statusOnly_frame (st : Status) : (Result.statusOnly st).frame = none := rfl
@[simp] theorem Result.statusOnly_payload (st : Status) : (Result.statusOnly st).payload = none := rfl

/-! ## The platform -/

@[simp] theorem platformReset_eq_next (s t : State) :
    platformReset s = .next t ↔ t = { s with crc := crcSeed, result := none } := by
  simp [platformReset, eq_comm]

@[simp] theorem idle_eq_next (s t : State) : idle s = .next t ↔ t = { s with result := none } := by
  simp [idle, eq_comm]

/-! ## Operand checks -/

theorem slaveLegal_iff (slave : Byte) :
    slaveLegal slave = true ↔ 1 ≤ slave.toNat ∧ slave.toNat ≤ 247 := by
  simp [slaveLegal]

theorem bufTooLong_iff (cfg : Config) (buf : List Byte) :
    bufTooLong cfg buf = true ↔ cfg.bufMax < buf.length := by
  simp [bufTooLong]

theorem bufMax_ge (cfg : Config) : 260 ≤ cfg.bufMax := Nat.le_add_right _ _

/-- All that the build commands share: a legal address gives the frame, another gives ERR_ADDR. -/
theorem buildRequest_eq_next (slave fc : Byte) (w1 w2 : U16) (s t : State) :
    buildRequest slave fc w1 w2 s = .next t ↔
      (slaveLegal slave = true ∧ t = s.setResult (Result.withFrame (buildFrame slave fc w1 w2))) ∨
      (slaveLegal slave = false ∧ t = s.setResult (Result.statusOnly .errAddr)) := by
  unfold buildRequest
  cases slaveLegal slave <;> simp [ErrorCode.status]

/-! ## Bytes -/

/-- Two bytes put together and taken apart. -/
@[simp] theorem join16_hiByte_loByte (v : U16) : join16 (hiByte v) (loByte v) = v := by
  ext i hi
  simp only [join16, hiByte, loByte, BitVec.getElem_or, BitVec.getElem_shiftLeft,
    BitVec.getElem_setWidth, BitVec.getLsbD_extractLsb']
  by_cases h : i < 8
  · simp [h, BitVec.getLsbD_eq_getElem hi]
  · have h8 : i - 8 < 8 := by omega
    have : 8 + (i - 8) = i := by omega
    simp [h, h8, this, BitVec.getLsbD_eq_getElem hi]

@[simp] theorem hiByte_join16 (hi lo : Byte) : hiByte (join16 hi lo) = hi := by
  ext i h
  have : 8 + i < 16 := by omega
  simp [hiByte, join16, this, BitVec.getLsbD_eq_getElem h]

@[simp] theorem loByte_join16 (hi lo : Byte) : loByte (join16 hi lo) = lo := by
  ext i h
  have : i < 16 := by omega
  simp [loByte, join16, this, h]

@[simp] theorem be16_length (v : U16) : (be16 v).length = 2 := rfl

/-! ## Checksums and frames -/

@[simp] theorem crcFold_nil (c : U16) : crcFold c [] = c := rfl

@[simp] theorem crcFold_cons (c : U16) (b : Byte) (s : List Byte) :
    crcFold c (b :: s) = crcFold (crcStep c b) s := rfl

theorem crcFold_append (c : U16) (s t : List Byte) :
    crcFold c (s ++ t) = crcFold (crcFold c s) t := by
  simp [crcFold]

@[simp] theorem crcBytes_length (s : List Byte) : (crcBytes s).length = 2 := rfl

@[simp] theorem appendCrc_length (s : List Byte) : (appendCrc s).length = s.length + 2 := by
  simp [appendCrc]

@[simp] theorem buildFrame_length (slave fc : Byte) (w1 w2 : U16) :
    (buildFrame slave fc w1 w2).length = 8 := by
  simp [buildFrame]

/-! ## The assembler's byte lists -/

@[simp] theorem asmBytes_nil : asmBytes [] = .ok [] := rfl

/-- A byte list assembles exactly when its first number and the rest do. -/
theorem asmBytes_cons_eq_ok (n : Number) (ns : List Number) (bs : List Byte) :
    asmBytes (n :: ns) = .ok bs ↔
      ∃ b rest, asmU8 n = .ok b ∧ asmBytes ns = .ok rest ∧ bs = b :: rest := by
  rw [asmBytes]
  cases asmU8 n <;> cases asmBytes ns <;> simp [bind, Except.bind, eq_comm]

/-- REQ assembles exactly when its list does, to its bytes. -/
theorem asmReq_eq_ok (ns : List Number) (req : Vector Byte 8) :
    asmReq ns = .ok req ↔ asmBytes ns = .ok req.toList := by
  rw [asmReq]
  cases h : asmBytes ns with
  | error e => simp [bind, Except.bind]
  | ok bs =>
    simp only [bind, Except.bind]
    split
    · rename_i hs
      simp only [Except.ok.injEq]
      constructor
      · rintro rfl; simp
      · rintro rfl; exact Vector.toArray_inj.1 (Array.toArray_toList)
    · rename_i hs
      simp only [reduceCtorEq, Except.ok.injEq, false_iff]
      rintro rfl
      exact hs (by simp)

/-! ## Steps -/

@[simp] theorem run_zero (s : State) : run 0 s = .next s := rfl

theorem run_succ_of_step {n : Nat} {s t : State} (h : step s = .next t) :
    run (n + 1) s = run n t := by
  simp [run, h]

/-- `run` is the host's own reading of several steps, for the machine's step. -/
theorem run_eq_host_run (n : Nat) (s : State) :
    run n s = Host.Core.run ⟨State, Fault, Refusal, step, State.reset⟩ n s := by
  induction n generalizing s with
  | zero => rfl
  | succ n ih =>
    simp only [run, Host.Core.run]
    cases step s with
    | next t => exact ih t
    | fault e => rfl
    | refused e => rfl

/-- `run` is the host's own reading of several steps of `core`. -/
theorem run_eq_core_run (n : Nat) (s : State) : run n s = Host.Core.run Sys2Proof.core n s :=
  run_eq_host_run n s

theorem step_command {s : State} {c : Command} {rest : List Input} (h : s.pending = .command c :: rest) :
    step s = exec (decode c) { s with pending := rest } := by
  simp [step, h]

end Sys2Proof.Machine
end

