-- ==== Sys2Proof/Laws/PerInstr.lean ====
section
/-! SUPPORT. A statement for every command, one lemma per constructor of Instr. -/

namespace Sys2Proof.Laws.ReservedOpcode

/-- A command is one of the reserved rows exactly when its OP is 0x0 or 0xA..0xF (30_encoding.md R62). -/
def Statement (i : Instr) : Prop :=
  i.isReserved = true ↔ opcode i = 0x0 ∨ 0xA ≤ (opcode i).toNat

theorem crcInit : Statement .crcInit := by simp [Statement, Instr.isReserved, opcode]

theorem crcUpdate (din : Byte) : Statement (.crcUpdate din) := by simp [Statement, Instr.isReserved, opcode]

theorem crcRead : Statement .crcRead := by simp [Statement, Instr.isReserved, opcode]

theorem crcBlock (buf : List Byte) : Statement (.crcBlock buf) := by simp [Statement, Instr.isReserved, opcode]

theorem bldRh (slave : Byte) (regaddr : U16) : Statement (.bldRh slave regaddr) := by simp [Statement, Instr.isReserved, opcode]

theorem bldRi (slave : Byte) (regaddr : U16) : Statement (.bldRi slave regaddr) := by simp [Statement, Instr.isReserved, opcode]

theorem bldWs (slave : Byte) (regaddr value : U16) : Statement (.bldWs slave regaddr value) := by simp [Statement, Instr.isReserved, opcode]

theorem chkRd (slave expfc explen : Byte) (buf : List Byte) : Statement (.chkRd slave expfc explen buf) := by simp [Statement, Instr.isReserved, opcode]

theorem chkWr (req : Vector Byte 8) (buf : List Byte) : Statement (.chkWr req buf) := by simp [Statement, Instr.isReserved, opcode]

theorem reserved0 : Statement .reserved0 := by simp [Statement, Instr.isReserved, opcode]

theorem reservedA : Statement .reservedA := by simp [Statement, Instr.isReserved, opcode]

theorem reservedB : Statement .reservedB := by simp [Statement, Instr.isReserved, opcode]

theorem reservedC : Statement .reservedC := by simp [Statement, Instr.isReserved, opcode]

theorem reservedD : Statement .reservedD := by simp [Statement, Instr.isReserved, opcode]

theorem reservedE : Statement .reservedE := by simp [Statement, Instr.isReserved, opcode]

theorem reservedF : Statement .reservedF := by simp [Statement, Instr.isReserved, opcode]

end Sys2Proof.Laws.ReservedOpcode
end

