-- ==== Sys2Proof/Tests/Slice0.lean ====
section
/-! SUPPORT. Tests of the model against the vectors of spec/95_test_vectors.md (named in each comment), a
decoded record for every row of spec/opcode_table.json, and for every statement with hypotheses a
witness that meets them together. -/

namespace Sys2Proof.Tests

open Sys2Proof Sys2Proof.Machine

/-- A small state: the given CRC, no result yet, nothing pending, the default parameters. -/
def at0 (crc : U16) : State := { State.reset with crc := crc }

/-- The next state, where there is one. -/
def after (o : Host.Outcome State Fault Refusal) : Option State :=
  match o with
  | .next t => some t
  | .fault _ => none
  | .refused _ => none

/-- `s` with a result. -/
def answered (s : State) (st : Status) (chk : Option U16) (frame payload : Option (List Byte)) :
    Option State :=
  some { s with result := some { status := st, chk := chk, frame := frame, payload := payload } }

/-! ## Well-formedness (30_encoding.md R63): an over-long BUF is refused, one that just fits is not -/

theorem test_wellFormed_refuses_long_crcBlock :
    (Instr.crcBlock (List.replicate 261 0)).wellFormed Config.default = false := by decide +kernel
theorem test_wellFormed_refuses_long_chkRd :
    (Instr.chkRd 10 4 2 (List.replicate 261 0)).wellFormed Config.default = false := by decide +kernel
theorem test_wellFormed_refuses_long_chkWr :
    (Instr.chkWr (Vector.replicate 8 0) (List.replicate 261 0)).wellFormed Config.default = false := by
  decide +kernel
theorem test_wellFormed_accepts_full_port :
    (Instr.crcBlock (List.replicate 260 0)).wellFormed Config.default = true := by decide +kernel

/-! ## Decoding: the OP bits as the `encoding` column of spec/opcode_table.json writes them -/

/-- A record with every operand field at a value of its own. -/
def full (op : BitVec 4) : Command :=
  { op := op, slave := 0x11, regaddr := 0x2233, value := 0x4455, din := 0x66, expfc := 0x77,
    explen := 0x88, buf := [0x99, 0xAA], req := #v[1, 2, 3, 4, 5, 6, 7, 8] }

theorem test_decode_crcInit : decode (full 0b0001) = .crcInit := by decide
theorem test_decode_crcUpdate : decode (full 0b0010) = .crcUpdate 0x66 := by decide
theorem test_decode_crcRead : decode (full 0b0011) = .crcRead := by decide
theorem test_decode_crcBlock : decode (full 0b0100) = .crcBlock [0x99, 0xAA] := by decide
theorem test_decode_bldRh : decode (full 0b0101) = .bldRh 0x11 0x2233 := by decide
theorem test_decode_bldRi : decode (full 0b0110) = .bldRi 0x11 0x2233 := by decide
theorem test_decode_bldWs : decode (full 0b0111) = .bldWs 0x11 0x2233 0x4455 := by decide
theorem test_decode_chkRd : decode (full 0b1000) = .chkRd 0x11 0x77 0x88 [0x99, 0xAA] := by decide
theorem test_decode_chkWr :
    decode (full 0b1001) = .chkWr #v[1, 2, 3, 4, 5, 6, 7, 8] [0x99, 0xAA] := by decide
theorem test_decode_reserved0 : decode (full 0b0000) = .reserved0 := by decide
theorem test_decode_reservedA : decode (full 0b1010) = .reservedA := by decide
theorem test_decode_reservedB : decode (full 0b1011) = .reservedB := by decide
theorem test_decode_reservedC : decode (full 0b1100) = .reservedC := by decide
theorem test_decode_reservedD : decode (full 0b1101) = .reservedD := by decide
theorem test_decode_reservedE : decode (full 0b1110) = .reservedE := by decide
theorem test_decode_reservedF : decode (full 0b1111) = .reservedF := by decide

/-! ## The CRC family -/

/-- V-CRC-7. -/
theorem test_crcInit :
    after (exec .crcInit (at0 0x1234)) = answered (at0 0xFFFF) .ok none none none := by decide
/-- The `crc_step` table: from 0xFFFF. -/
theorem test_crcStep_from_seed :
    [0x00, 0x01, 0x80, 0xFF, 0xA5].map (crcStep 0xFFFF) =
      [0x40BF, 0x807E, 0xE0BE, 0x00FF, 0x3B7F] := by decide
/-- The `crc_step` table: from 0x0000. -/
theorem test_crcStep_from_zero :
    [0x00, 0x01, 0x80, 0xFF, 0xA5].map (crcStep 0x0000) =
      [0x0000, 0xC0C1, 0xA001, 0x4040, 0x7BC0] := by decide
/-- P1, line 9: a step that starts with a high byte of its own. -/
theorem test_crcUpdate :
    after (exec (.crcUpdate 0x84) (at0 0x0A84)) = answered (at0 0x000A) .ok none none none := by decide
/-- V-CRC-8. -/
theorem test_crcRead :
    after (exec .crcRead (at0 0x0A84)) = answered (at0 0x0A84) .ok (some 0x840A) none none := by decide
/-- V-CRC-2. -/
theorem test_crcBlock :
    after (exec (.crcBlock [0x31, 0x32, 0x33, 0x34, 0x35, 0x36, 0x37, 0x38, 0x39]) (at0 0x1234)) =
      answered (at0 0x1234) .ok (some 0x374B) none none := by decide +kernel
/-- V-CRC-6. -/
theorem test_crcBlock_too_long :
    after (exec (.crcBlock (List.replicate 261 0)) (at0 0x1234)) =
      answered (at0 0x1234) .errCmd none none none := by decide +kernel

/-! ## The build family -/

/-- V-BLD-6. -/
theorem test_bldRh :
    after (exec (.bldRh 247 0xFFFF) (at0 7)) =
      answered (at0 7) .ok none (some [0xF7, 0x03, 0xFF, 0xFF, 0x00, 0x01, 0x90, 0xB8]) none := by decide +kernel
/-- V-BLD-13. -/
theorem test_bldRh_broadcast :
    after (exec (.bldRh 0 0x0000) (at0 7)) = answered (at0 7) .errAddr none none none := by decide
/-- V-BLD-2, S2. -/
theorem test_bldRi :
    after (exec (.bldRi 5 0xD010) (at0 7)) =
      answered (at0 7) .ok none (some [0x05, 0x04, 0xD0, 0x10, 0x00, 0x01, 0x09, 0x4B]) none := by decide +kernel
/-- V-BLD-14. -/
theorem test_bldRi_above_range :
    after (exec (.bldRi 248 0x0000) (at0 7)) = answered (at0 7) .errAddr none none none := by decide
/-- V-BLD-12. -/
theorem test_bldWs :
    after (exec (.bldWs 5 0x0101 (valuePattern (-20))) (at0 7)) =
      answered (at0 7) .ok none (some [0x05, 0x06, 0x01, 0x01, 0xFF, 0xEC, 0x98, 0x0F]) none := by decide +kernel
/-- V-BLD-15. -/
theorem test_bldWs_above_range :
    after (exec (.bldWs 255 0x0000 0) (at0 7)) = answered (at0 7) .errAddr none none none := by decide

/-! ## The check family -/

/-- V-CK-8. -/
theorem test_chkRd_four_bytes :
    after (exec (.chkRd 5 4 4 [0x05, 0x04, 0x04, 0x12, 0x34, 0x56, 0x78, 0xC5, 0x70]) (at0 7)) =
      answered (at0 7) .ok none none (some [0x12, 0x34, 0x56, 0x78]) := by decide +kernel
/-- V-CK-2 to V-CK-7, V-CK-9, V-CK-11 to V-CK-13: every one a REJECT. -/
theorem test_chkRd_rejects :
    ([ .chkRd 10 4 2 [0x0B, 0x04, 0x02, 0x00, 0xC8, 0x20, 0xA7],
       .chkRd 10 4 2 [0x0A, 0x03, 0x02, 0x00, 0xC8, 0x1C, 0x13],
       .chkRd 10 4 4 [0x0A, 0x04, 0x02, 0x00, 0xC8, 0x1D, 0x67],
       .chkRd 10 4 2 [0x0A, 0x04, 0x02, 0x00, 0xC9, 0x1D, 0x67],
       .chkRd 10 4 2 [0x0A, 0x04, 0x02, 0x00, 0xC8, 0x1D],
       .chkRd 10 4 2 [0x0A, 0x04, 0x02, 0x00, 0xC8, 0x1D, 0x67, 0x00],
       .chkRd 10 4 2 [0x0A, 0x04, 0x02, 0x00, 0xC8, 0x67, 0x1D],
       .chkRd 10 4 2 [],
       .chkRd 10 4 2 [0x0A, 0x84, 0x02, 0xB3, 0x03],
       .chkRd 10 0x84 0 [0x0A, 0x84, 0x02, 0xB3, 0x03] ] : List Instr).all
      (fun i => after (exec i (at0 7)) == answered (at0 7) .reject none none none) = true := by decide +kernel
/-- V-CK-18. -/
theorem test_chkWr_echo :
    after (exec (.chkWr #v[0x05, 0x06, 0x01, 0x01, 0x00, 0x14, 0xD8, 0x7D]
      [0x05, 0x06, 0x01, 0x01, 0x00, 0x14, 0xD8, 0x7D]) (at0 7)) =
      answered (at0 7) .ok none none none := by decide
/-- V-CK-19 to V-CK-22: every one a REJECT. -/
theorem test_chkWr_rejects :
    ([ [0x05, 0x06, 0x01, 0x01, 0x00, 0x15, 0x19, 0xBD],
       [0x05, 0x06, 0x01, 0x01, 0x00, 0x14, 0xD8],
       [0x05, 0x06, 0x01, 0x01, 0x00, 0x14, 0xD8, 0x7D, 0x00],
       [] ] : List (List Byte)).all
      (fun b => after (exec (.chkWr #v[0x05, 0x06, 0x01, 0x01, 0x00, 0x14, 0xD8, 0x7D] b) (at0 7)) ==
        answered (at0 7) .reject none none none) = true := by decide

/-! ## Reserved OP values -/

/-- V-ERR-1, V-ERR-2, V-ERR-3 and the four OP values between: CRC kept, ERR_CMD. -/
theorem test_reserved :
    ([0x0, 0xA, 0xB, 0xC, 0xD, 0xE, 0xF] : List (BitVec 4)).all
      (fun op => after (exec (decode (full op)) (at0 0x1234)) ==
        answered (at0 0x1234) .errCmd none none none) = true := by decide

/-! ## Steps, the reset, the assembler -/

/-- The first step after reset with a table word presented (R190: CRC is the seed, so CHK = 0xFFFF). -/
theorem test_first_step :
    after (step (State.reset.withFetchWord 8 0x3)) =
      answered State.reset .ok (some 0xFFFF) none none := by decide
/-- Every word of spec/opcode_table.json runs as the first command after reset. -/
theorem test_every_row_runs_first :
    (List.range 16).all (fun w => (after (step (State.reset.withFetchWord 8 w))).isSome) = true := by
  decide +kernel
/-- R190, R191. -/
theorem test_platform_reset :
    after (step { at0 0x1234 with pending := [.reset], result := some (Result.statusOnly .errCmd) }) =
      some State.reset := by decide
/-- R24: STATUS is not kept after the command, and R21: CRC is. -/
theorem test_idle_drops_result :
    after (step { at0 0x1234 with result := some (Result.withChk 5) }) = some (at0 0x1234) := by decide
/-- P3, line 1 in assembler syntax, and the signed form of V-BLD-12. -/
theorem test_assemble_bldWs :
    assemble "BLD_WS 5, 0x0101, 20" = .ok [.bldWs 0x05 0x0101 0x0014] ∧
    assemble "BLD_WS 5, 0x0101, -20 ; V-BLD-12" = .ok [.bldWs 0x05 0x0101 0xFFEC] := by decide
/-- R75: a hexadecimal value is a u16, and a decimal one is signed (log entry 11). -/
theorem test_assemble_value_forms :
    assemble "BLD_WS 1, 2, 0xFFFF" = .ok [.bldWs 1 2 0xFFFF] ∧
    assemble "BLD_WS 1, 2, 0x10000" = .error .outOfRange ∧
    assemble "BLD_WS 1, 2, 40000" = .error .outOfRange := by decide
/-- R75: no truncation. R76: a pseudo-instruction. -/
theorem test_assemble_range_and_pseudo :
    assemble "CRC_UPDATE 256" = .error .outOfRange ∧
    assemble "CHK_RI 10, 2, [0x0A, 0x04]" = .ok [.chkRd 10 4 2 [0x0A, 0x04]] := by decide

/-! ## Witnesses: the hypotheses of the statements are met together -/

/-- The accepted frame of V-CK-1. -/
def frame7 : List Byte := [0x0A, 0x04, 0x02, 0x00, 0xC8, 0x1D, 0x67]

theorem witness_IdleAndResetStepsAreTheModelsChoice :
    (at0 0x1234).pending = [] ∧
    ({ at0 0x1234 with pending := [.reset, .command (full 3)] } : State).pending =
      .reset :: [.command (full 3)] :=
  ⟨rfl, rfl⟩
theorem witness_StepRunsTheDecodedCommand :
    ((at0 0x1234).present [full 2]).pending = .command (full 2) :: [] := rfl
theorem witness_DecoderFollowsTheCommandMap :
    (full 0x1).op = 0x1 ∧ (full 0x9).op = 0x9 ∧ 0xA ≤ (full 0xA).op.toNat ∧ 0xA ≤ (full 0xF).op.toNat := by
  decide
/-- Records that differ in a field CRC_UPDATE does not read. -/
theorem witness_UnreadFieldsHaveNoEffect :
    ({ full 2 with buf := [] } : Command).op = (full 2).op ∧
    SameOperands (decode (full 2)) { full 2 with buf := [] } (full 2) ∧
    ({ full 2 with buf := [] } : Command) ≠ full 2 :=
  ⟨rfl, rfl, by decide⟩
theorem witness_ReservedOpcodesEndWithErrCmd :
    ((full 0x0).op = 0x0 ∨ 0xA ≤ (full 0x0).op.toNat) ∧
    ((full 0xA).op = 0x0 ∨ 0xA ≤ (full 0xA).op.toNat) := by decide
theorem witness_OverlongBufMattersOnlyWhereBufIsRead :
    (decode { full 4 with buf := List.replicate 261 0 }).bufOperand = some (List.replicate 261 0) ∧
    (at0 0).config.bufMax < (List.replicate 261 (0 : Byte)).length ∧
    (decode (full 5)).bufOperand = none := by decide +kernel
theorem witness_NoAcceptableReadResponseIsCutOff : readRespOk frame7 10 4 2 = true := by decide +kernel
theorem witness_CrcStepIsEightShiftsLowBitFirst :
    ∃ bit : U16 → U16, ∀ x : U16, bit x = if x[0] = true then (x >>> 1) ^^^ 0xA001 else x >>> 1 :=
  ⟨_, fun _ => rfl⟩
theorem witness_CrcStepIsLinearAndOneToOne : crcStep 3 5 = crcStep 3 5 := rfl
theorem witness_ChecksumRoundTripOnBuiltFrames :
    frame7 = appendCrc [0x0A, 0x04, 0x02, 0x00, 0xC8] := by decide +kernel
theorem witness_CrcInitWritesTheSeed :
    (at0 0xFFFF).crc = State.reset.crc ∧ ∃ t, exec .crcInit (at0 0xFFFF) = .next t :=
  ⟨rfl, _, rfl⟩
theorem witness_CrcUpdateFoldsOneByte : (full 0x2).op = 0x2 := rfl
theorem witness_CrcReadReturnsTheSwappedRegister : (full 0x3).op = 0x3 := rfl
theorem witness_CrcBlockReturnsTheChecksum :
    (List.replicate 260 (0 : Byte)).length ≤ (at0 7).config.bufMax ∧
    (at0 7).config.bufMax < (List.replicate 261 (0 : Byte)).length ∧
    frame7 = appendCrc [0x0A, 0x04, 0x02, 0x00, 0xC8] := by decide +kernel
/-- Nothing pending: also for the other statements about sequences of commands. -/
theorem witness_IntactFrameLeavesResidueZero : (at0 0x5555).pending = [] := rfl
theorem witness_StreamedChecksumEqualsBlockChecksum :
    (at0 0x5555).pending = [] ∧ ([0x01, 0x03] : List Byte).length ≤ (at0 0x5555).config.bufMax := by decide
theorem witness_CommandsTakeEffectInTheOrderPresented : (at0 0x1234).pending = [] := rfl
/-- P4: errors, CRC_BLOCK and a build inside a stream of [01, 03]. -/
theorem witness_InterleavedCommandsDoNotDisturbAStream :
    (at0 0xFFFF).pending = [] ∧
    ([.crcUpdate 0x01, .bldRh 0 0, .reservedC, .crcBlock [0x01, 0x03], .bldRh 1 0, .crcUpdate 0x03] :
      List Instr).filter writesCrc = [0x01, 0x03].map .crcUpdate := by decide
theorem witness_BuildFrameLayout :
    ([0x05, 0x04, 0xD0, 0x10, 0x00, 0x01] : List Byte) =
      [0x05, 0x04, (0xD010 : U16).extractLsb' 8 8, (0xD010 : U16).extractLsb' 0 8,
        (1 : U16).extractLsb' 8 8, (1 : U16).extractLsb' 0 8] := by decide
/-- The ends of the legal range and the addresses beside them, for the three build statements. -/
theorem witness_ReadHoldingRequestIsBuilt :
    (1 ≤ (1 : Byte).toNat ∧ (1 : Byte).toNat ≤ 247) ∧ (1 ≤ (247 : Byte).toNat ∧ (247 : Byte).toNat ≤ 247) ∧
    ((0 : Byte) = 0 ∨ 247 < (0 : Byte).toNat) ∧ ((248 : Byte) = 0 ∨ 247 < (248 : Byte).toNat) := by decide
theorem witness_ReadInputRequestIsBuilt :
    ((1 ≤ (247 : Byte).toNat ∧ (247 : Byte).toNat ≤ 247) ∧ (1 ≤ (1 : Byte).toNat ∧ (1 : Byte).toNat ≤ 247)) ∧
    (((0 : Byte) = 0 ∨ 247 < (0 : Byte).toNat) ∧ ((248 : Byte) = 0 ∨ 247 < (248 : Byte).toNat)) ∧
    ∃ rh ri, rh = buildFrame 5 3 0xD010 0x0001 ∧ ri = buildFrame 5 4 0xD010 0x0001 :=
  ⟨by decide, by decide, _, _, rfl, rfl⟩
theorem witness_WriteRequestIsBuilt :
    ((1 ≤ (247 : Byte).toNat ∧ (247 : Byte).toNat ≤ 247) ∧ (1 ≤ (1 : Byte).toNat ∧ (1 : Byte).toNat ≤ 247)) ∧
    (((0 : Byte) = 0 ∨ 247 < (0 : Byte).toNat) ∧ ((248 : Byte) = 0 ∨ 247 < (248 : Byte).toNat)) := by decide
theorem witness_SignedValueSurvivesTheWriteFrame :
    1 ≤ (5 : Byte).toNat ∧ (5 : Byte).toNat ≤ 247 ∧ (-32768 : Int) ≤ -32768 ∧ (-32768 : Int) ≤ 32767 := by
  decide
/-- An accepted frame, an over-long BUF, and a BUF that fails each named condition. -/
theorem witness_ReadCheckDeliversThePayload :
    (at0 7).config.bufMax < (List.replicate 261 (0 : Byte)).length ∧
    (frame7.length ≤ (at0 7).config.bufMax ∧ readRespOk frame7 10 4 2 = true) ∧
    (frame7.length ≤ (at0 7).config.bufMax ∧ readRespOk frame7 10 4 4 = false) ∧
    frame7[0]? ≠ some 11 ∧ frame7.length ≠ (4 : Byte).toNat + 5 ∧ frame7[1]? ≠ some 3 := by decide +kernel
theorem witness_ReadCheckAcceptsExactlyTheResponseFrames :
    (([0x00, 0xC8] : List Byte).length = (2 : Byte).toNat ∧ ([] : List Byte).length = (0 : Byte).toNat) ∧
    ([] : List Byte).length ≤ (at0 7).config.bufMax ∧
    ¬ ∃ payload : List Byte, payload.length = (2 : Byte).toNat ∧ [] = readResponse 10 4 payload := by
  refine ⟨by decide, by decide, ?_⟩
  rintro ⟨p, -, h⟩
  simpa [readResponse] using congrArg List.length h
theorem witness_AnyChangedByteOfAReadResponseIsRejected :
    readRespOk frame7 10 4 2 = true ∧ 6 < frame7.length ∧ frame7[6]? ≠ some 0x66 := by decide +kernel
theorem witness_WriteCheckAcceptsExactlyTheEcho :
    (at0 7).config.bufMax < (List.replicate 261 (0 : Byte)).length ∧
    (([5] : List Byte).length ≤ (at0 7).config.bufMax ∧
      ([5] : List Byte) ≠ (Vector.replicate 8 (0 : Byte)).toList) ∧
    ([5] : List Byte).length ≠ 8 := by decide +kernel
theorem witness_WriteValidationIsEquality :
    ([5, 6] : List Byte).length = ([5, 7] : List Byte).length ∧ 1 < ([5, 7] : List Byte).length := by decide
theorem witness_BuiltWriteRequestIsEchoedByItselfAlone :
    (1 ≤ (5 : Byte).toNat ∧ (5 : Byte).toNat ≤ 247) ∧
    (#v[0x05, 0x06, 0x01, 0x01, 0x00, 0x14, 0xD8, 0x7D] : Vector Byte 8).toList =
      buildFrame 5 6 0x0101 20 ∧
    (buildFrame 5 6 0x0101 20).length ≤ (at0 7).config.bufMax := by decide +kernel
/-- Each STATUS value is reached, so no clause about one is empty. -/
theorem witness_StatusEncodingAndWhoSetsIt :
    [ (.crcInit : Instr), .chkRd 10 4 2 [], .bldRh 248 0, .reservedF ].map
      (fun i => (after (exec i (at0 7))).bind fun t => t.result.map Result.status) =
      [some .ok, some .reject, some .errAddr, some .errCmd] := by decide
/-- REJECT from either checker. -/
theorem witness_RejectCarriesNoReason :
    [ (.chkRd 10 4 2 [] : Instr), .chkWr (Vector.replicate 8 0) [5] ].map
      (fun i => (after (exec i (at0 7))).bind fun t => t.result.map Result.status) =
      [some .reject, some .reject] := by decide
/-- ERR_ADDR, and ERR_CMD from each of its two causes. -/
theorem witness_ErrorsWriteNoStateAndDoNotLast :
    [ (.bldWs 0 0 0 : Instr), .reserved0, .chkWr (Vector.replicate 8 0) (List.replicate 261 0) ].map
      (fun i => (after (exec i (at0 7))).bind fun t => t.result.map Result.status) =
      [some .errAddr, some .errCmd, some .errCmd] := by decide +kernel
theorem witness_ResultFieldsAreSetByTheirCommands :
    [ (.crcRead : Instr), .bldRh 1 0, .chkRd 10 4 2 frame7 ].map
      (fun i => (after (exec i (at0 7))).bind fun t => t.result.map fun r =>
        (r.chk.isSome, r.frame.isSome, r.payload.isSome)) =
      [some (true, false, false), some (false, true, false), some (false, false, true)] := by decide +kernel
theorem witness_ConditionsAreReportedInOrder :
    Instr.reservedA.isReserved = true ∧
    ((Instr.crcBlock (List.replicate 261 0)).isReserved = false ∧
      (Instr.crcBlock (List.replicate 261 0)).wellFormed (at0 7).config = false) ∧
    ((Instr.bldRh 248 0).isReserved = false ∧ (Instr.bldRh 248 0).wellFormed (at0 7).config = true ∧
      (Instr.bldRh 248 0).buildSlave = some 248 ∧ 247 < (248 : Byte).toNat) ∧
    (Instr.crcRead.isReserved = false ∧ Instr.crcRead.wellFormed (at0 7).config = true ∧
      Instr.crcRead.buildSlave = none) := by decide +kernel
theorem witness_EveryCommandCompletes :
    ((at0 7).present [full 8]).pending = .command (full 8) :: [] := rfl
theorem witness_CrcRegisterAccess :
    Instr.crcBlock [] ≠ .crcInit ∧ Instr.crcBlock [] ≠ .crcRead ∧
    ∀ din, Instr.crcBlock [] ≠ .crcUpdate din := by
  simp
theorem witness_OnlyCrcUpdateIsNotIdempotent :
    (∀ din, Instr.crcInit ≠ .crcUpdate din) ∧ (∀ din, Instr.bldRh 1 0 ≠ .crcUpdate din) ∧
    Instr.bldRh 1 0 ≠ .crcInit := by
  simp
/-- The invariant's frame condition takes the frame of V-BLD-1 (bytes 4-5 are 00 01) and refuses a count
of 2 with a checksum of its own. -/
theorem witness_RequestFrame :
    RequestFrame [0x01, 0x03, 0x00, 0x00, 0x00, 0x01, 0x84, 0x0A] ∧
    ¬ RequestFrame (appendCrc [0x01, 0x03, 0x00, 0x00, 0x00, 0x02]) := by
  unfold RequestFrame
  decide +kernel
/-- A record before each kind of step, and both sides of the equivalence. -/
theorem witness_StatusIsNotKeptAfterTheCommand :
    [ [.command (full 2)], [.reset], ([] : List Input) ].map
      (fun pending => (after (step
        { at0 7 with result := some (Result.withChk 5), pending := pending })).map fun t => t.result.isSome) =
      [some true, some false, some false] := by decide +kernel
/-- A state that already holds a CHK, and its step. -/
theorem witness_StepKeepsTheResultShape :
    ∃ s t : State, s.Inv ∧ s.result ≠ none ∧ step s = .next t ∧ t ≠ s :=
  ⟨{ at0 7 with result := some (Result.withChk 5), pending := [.command (full 2)] }, _,
    by simp [State.Inv, ResultShape, Result.withChk], by decide, rfl, by decide⟩
theorem witness_AssemblerNeverTruncates :
    (-1 : Int) < 0 ∧ (255 : Int) < 256 ∧ (65535 : Int) < 65536 ∧ (-32769 : Int) < -32768 ∧
    (32767 : Int) < 32768 ∧ ({ value := -20, hex := false } : Number).hex = false ∧
    ({ value := 0xFFFF, hex := true } : Number).hex = true ∧
    (∃ n ∈ ([{ value := 255, hex := false }, { value := 256, hex := false }] : List Number),
      n.value < 0 ∨ 255 < n.value) ∧
    (List.replicate 7 ({ value := 0, hex := false } : Number)).length ≠ 8 := by decide

end Sys2Proof.Tests
end

section
/-! The presented command (00_scope.md R6) and the capacity of the BUF port (00_scope.md R8). -/

namespace Sys2Proof.Machine

/-! ## The presented command -/

/-- A table word goes in front of the inputs and its step takes it off again, so the command runs at the
state before it was presented. -/
theorem step_withFetchWord (s : State) (nbits w : Nat) :
    step (s.withFetchWord nbits w) = exec (decode (commandOfWord w)) s :=
  step_command (State.withFetchWord_pending s nbits w)

/-- Settles O3: each clause is the rule for the step of one presented record. -/
theorem stepRunsTheDecodedCommand : Obligations.StepRunsTheDecodedCommand :=
  ⟨fun _ _ _ => step_command, fun s nbits w => congrArg some (step_withFetchWord s nbits w)⟩

/-! ## The capacity of the BUF port -/

/-- Condition (a) of 42_frame_check.md R140. -/
theorem length_eq_of_readRespOk {b : List Byte} {slave fc len : Byte}
    (h : readRespOk b slave fc len = true) : b.length = len.toNat + 5 := by
  by_contra hlen
  simp [readRespOk, hlen] at h

/-- The length byte declares at most 255 payload bytes, and five bytes stand around them. -/
theorem length_le_of_readRespOk {b : List Byte} {slave fc len : Byte}
    (h : readRespOk b slave fc len = true) : b.length ≤ 260 := by
  have hlen := length_eq_of_readRespOk h
  have hbyte : len.toNat < 256 := len.isLt
  omega

theorem bufTooLong_eq_false_iff (cfg : Config) (buf : List Byte) :
    bufTooLong cfg buf = false ↔ buf.length ≤ cfg.bufMax := by
  rw [← Bool.not_eq_true, bufTooLong_iff, not_lt]

/-- Settles O10: what `readRespOk` accepts has at most 260 bytes, and every BUF_MAX is at least that. -/
theorem noAcceptableReadResponseIsCutOff : Obligations.NoAcceptableReadResponseIsCutOff := by
  refine ⟨bufMax_ge, rfl, fun cfg b slave fc len hok => ?_⟩
  have hlen : b.length ≤ 260 := length_le_of_readRespOk hok
  exact ⟨hlen, (bufTooLong_eq_false_iff cfg b).2 (hlen.trans (bufMax_ge cfg))⟩

end Sys2Proof.Machine
end

section
/-! What a command leaves behind, said once (10_state.md R20 to R28): its result record, as a function of
the command, the parameters and CRC, and the value of CRC. The statements of the family 10_state.md are
read off from it. -/

namespace Sys2Proof.Machine

/-! ## The parts of a result record -/

@[simp] theorem Result.withChk_status (v : U16) : (Result.withChk v).status = .ok := rfl
@[simp] theorem Result.withChk_chk (v : U16) : (Result.withChk v).chk = some v := rfl
@[simp] theorem Result.withChk_frame (v : U16) : (Result.withChk v).frame = none := rfl
@[simp] theorem Result.withChk_payload (v : U16) : (Result.withChk v).payload = none := rfl

@[simp] theorem Result.withFrame_status (f : List Byte) : (Result.withFrame f).status = .ok := rfl
@[simp] theorem Result.withFrame_chk (f : List Byte) : (Result.withFrame f).chk = none := rfl
@[simp] theorem Result.withFrame_frame (f : List Byte) : (Result.withFrame f).frame = some f := rfl
@[simp] theorem Result.withFrame_payload (f : List Byte) : (Result.withFrame f).payload = none := rfl

@[simp] theorem Result.withPayload_status (p : List Byte) : (Result.withPayload p).status = .ok := rfl
@[simp] theorem Result.withPayload_chk (p : List Byte) : (Result.withPayload p).chk = none := rfl
@[simp] theorem Result.withPayload_frame (p : List Byte) : (Result.withPayload p).frame = none := rfl
@[simp] theorem Result.withPayload_payload (p : List Byte) : (Result.withPayload p).payload = some p := rfl

/-! ## The result record of a command -/

/-- The record of a build command with the frame `f` (41_frame_build.md R121). -/
def buildResult (slave : Byte) (f : List Byte) : Result :=
  if slaveLegal slave then Result.withFrame f else Result.statusOnly .errAddr

/-- The record of a command that reads BUF: `r`, unless BUF is over-long (30_encoding.md R63). -/
def unlessTooLong (cfg : Config) (buf : List Byte) (r : Result) : Result :=
  if bufTooLong cfg buf then Result.statusOnly .errCmd else r

/-- The record of CHK_RD for a BUF that is not over-long (42_frame_check.md R142). -/
def readCheckResult (slave expfc explen : Byte) (buf : List Byte) : Result :=
  if readRespOk buf slave expfc explen then Result.withPayload (slice buf 3 explen.toNat)
  else Result.statusOnly .reject

/-- The result record of each command; tied to the model by `exec_eq`. -/
def resultOf (cfg : Config) (crc : U16) : Instr → Result
  | .crcInit => Result.statusOnly .ok
  | .crcUpdate _ => Result.statusOnly .ok
  | .crcRead => Result.withChk (swap16 crc)
  | .crcBlock buf => unlessTooLong cfg buf (Result.withChk (checksum buf))
  | .bldRh slave regaddr => buildResult slave (buildFrame slave fcReadHolding regaddr readCount)
  | .bldRi slave regaddr => buildResult slave (buildFrame slave fcReadInput regaddr readCount)
  | .bldWs slave regaddr value => buildResult slave (buildFrame slave fcWriteSingle regaddr value)
  | .chkRd slave expfc explen buf =>
      unlessTooLong cfg buf (readCheckResult slave expfc explen buf)
  | .chkWr req buf =>
      unlessTooLong cfg buf (Result.statusOnly (Status.ofCheck (writeEchoOk req.toList buf)))
  | .reserved0 => Result.statusOnly .errCmd
  | .reservedA => Result.statusOnly .errCmd
  | .reservedB => Result.statusOnly .errCmd
  | .reservedC => Result.statusOnly .errCmd
  | .reservedD => Result.statusOnly .errCmd
  | .reservedE => Result.statusOnly .errCmd
  | .reservedF => Result.statusOnly .errCmd

theorem buildRequest_eq_complete (slave fc : Byte) (w1 w2 : U16) (s : State) :
    buildRequest slave fc w1 w2 s = complete (buildResult slave (buildFrame slave fc w1 w2)) s := by
  unfold buildRequest buildResult
  split <;> rfl

theorem execCrcBlock_eq_complete (buf : List Byte) (s : State) :
    execCrcBlock buf s =
      complete (unlessTooLong s.config buf (Result.withChk (checksum buf))) s := by
  unfold execCrcBlock unlessTooLong
  split <;> rfl

theorem execChkRd_eq_complete (slave expfc explen : Byte) (buf : List Byte) (s : State) :
    execChkRd slave expfc explen buf s =
      complete (unlessTooLong s.config buf (readCheckResult slave expfc explen buf)) s := by
  unfold execChkRd unlessTooLong readCheckResult
  split
  · rfl
  · split <;> rfl

theorem execChkWr_eq_complete (req : Vector Byte 8) (buf : List Byte) (s : State) :
    execChkWr req buf s = complete (unlessTooLong s.config buf
      (Result.statusOnly (Status.ofCheck (writeEchoOk req.toList buf)))) s := by
  unfold execChkWr unlessTooLong
  split <;> rfl

/-- Every command answers a next state, in which it has written CRC and the result record only. -/
theorem exec_eq (i : Instr) (s : State) :
    exec i s =
      .next ((s.setCrc (crcAfter s.crc i)).setResult (resultOf s.config s.crc i)) := by
  cases i with
  | crcBlock buf => exact execCrcBlock_eq_complete buf s
  | bldRh slave regaddr => exact buildRequest_eq_complete slave fcReadHolding regaddr readCount s
  | bldRi slave regaddr => exact buildRequest_eq_complete slave fcReadInput regaddr readCount s
  | bldWs slave regaddr value => exact buildRequest_eq_complete slave fcWriteSingle regaddr value s
  | chkRd slave expfc explen buf => exact execChkRd_eq_complete slave expfc explen buf s
  | chkWr req buf => exact execChkWr_eq_complete req buf s
  | _ => rfl

/-- No command reads the result record of an earlier one (10_state.md R24). -/
theorem exec_result_irrelevant (i : Instr) (s : State) (before : Option Result) :
    exec i { s with result := before } = exec i s := by
  rw [exec_eq, exec_eq]
  rfl

/-! ## What a step can do -/

theorem step_idle {s : State} (h : s.pending = []) : step s = .next { s with result := none } := by
  simp [step, h]

theorem step_reset {s : State} {rest : List Input} (h : s.pending = .reset :: rest) :
    step s = .next { s with crc := crcSeed, result := none, pending := rest } := by
  simp [step, h]

/-- A step drops the result record, unless it performs a command, whose record then stands. -/
theorem step_cases (s : State) :
    (s.pending = [] ∧ step s = .next { s with result := none }) ∨
    (∃ rest, s.pending = .reset :: rest ∧
      step s = .next { s with crc := crcSeed, result := none, pending := rest }) ∨
    (∃ c rest, s.pending = .command c :: rest ∧
      step s = .next { s with
        crc := crcAfter s.crc (decode c)
        result := some (resultOf s.config s.crc (decode c))
        pending := rest }) := by
  obtain ⟨crc, result, pending, config⟩ := s
  match pending with
  | [] => exact .inl ⟨rfl, step_idle rfl⟩
  | .reset :: rest => exact .inr (.inl ⟨rest, rfl, step_reset rfl⟩)
  | .command c :: rest =>
    exact .inr (.inr ⟨c, rest, rfl, (step_command rfl).trans (exec_eq (decode c) _)⟩)

/-- No step depends on the result record before it (10_state.md R24). -/
theorem step_result_irrelevant (s : State) (before : Option Result) :
    step { s with result := before } = step s := by
  obtain ⟨crc, result, pending, config⟩ := s
  match pending with
  | [] => rfl
  | .reset :: rest => rfl
  | .command c :: rest =>
    exact exec_result_irrelevant (decode c) ⟨crc, result, rest, config⟩ before

/-! ## The shape of a result record (10_state.md R27) -/

theorem resultShape_statusOnly (st : Status) : ResultShape (Result.statusOnly st) := by
  simp [ResultShape]

theorem resultShape_withChk (v : U16) : ResultShape (Result.withChk v) := by
  simp [ResultShape]

theorem resultShape_withFrame {f : List Byte} (h : RequestFrame f) :
    ResultShape (Result.withFrame f) := by
  simp [ResultShape, h]

theorem resultShape_withPayload {p : List Byte} (h : p.length ≤ 255) :
    ResultShape (Result.withPayload p) := by
  simp [ResultShape, h]

/-- The frame of a legal address is a request, as long as a read request counts one register. -/
theorem requestFrame_buildFrame {slave fc : Byte} {w1 w2 : U16} (hslave : slaveLegal slave = true)
    (hfc : (fc = fcReadHolding ∨ fc = fcReadInput) ∧ w2 = readCount ∨ fc = fcWriteSingle) :
    RequestFrame (buildFrame slave fc w1 w2) := by
  have haddress : (buildFrame slave fc w1 w2)[0]? = some slave := rfl
  have hfunction : (buildFrame slave fc w1 w2)[1]? = some fc := rfl
  refine ⟨buildFrame_length slave fc w1 w2, rfl, ?_, ?_⟩
  · rw [haddress]
    simpa using hslave
  · rw [hfunction]
    obtain ⟨hread, rfl⟩ | rfl := hfc
    · exact ⟨by simpa [or_assoc] using Or.inl hread, fun _ => ⟨rfl, rfl⟩⟩
    · exact ⟨.inr (.inr rfl), fun h => absurd h (by decide)⟩

theorem resultShape_buildResult {slave fc : Byte} {w1 w2 : U16}
    (hfc : (fc = fcReadHolding ∨ fc = fcReadInput) ∧ w2 = readCount ∨ fc = fcWriteSingle) :
    ResultShape (buildResult slave (buildFrame slave fc w1 w2)) := by
  unfold buildResult
  split
  case isTrue hslave => exact resultShape_withFrame (requestFrame_buildFrame hslave hfc)
  case isFalse => exact resultShape_statusOnly .errAddr

theorem resultShape_unlessTooLong (cfg : Config) (buf : List Byte) {r : Result} (h : ResultShape r) :
    ResultShape (unlessTooLong cfg buf r) := by
  unfold unlessTooLong
  split
  · exact resultShape_statusOnly .errCmd
  · exact h

/-- The payload of an accepted response lies inside it (42_frame_check.md R140). -/
theorem slice_length_of_readRespOk {b : List Byte} {slave fc len : Byte}
    (h : readRespOk b slave fc len = true) : (slice b 3 len.toNat).length = len.toNat := by
  have hlen := length_eq_of_readRespOk h
  simp only [slice, List.length_take, List.length_drop]
  omega

theorem resultShape_readCheckResult (slave expfc explen : Byte) (buf : List Byte) :
    ResultShape (readCheckResult slave expfc explen buf) := by
  unfold readCheckResult
  split
  case isTrue hok =>
    have hbyte : explen.toNat < 256 := explen.isLt
    exact resultShape_withPayload (by rw [slice_length_of_readRespOk hok]; omega)
  case isFalse => exact resultShape_statusOnly .reject

/-- Every command answers a record of the right shape. -/
theorem resultShape_resultOf (cfg : Config) (crc : U16) (i : Instr) :
    ResultShape (resultOf cfg crc i) := by
  cases i with
  | crcRead => exact resultShape_withChk _
  | crcBlock buf => exact resultShape_unlessTooLong cfg buf (resultShape_withChk _)
  | bldRh => exact resultShape_buildResult (.inl ⟨.inl rfl, rfl⟩)
  | bldRi => exact resultShape_buildResult (.inl ⟨.inr rfl, rfl⟩)
  | bldWs => exact resultShape_buildResult (.inr rfl)
  | chkRd slave expfc explen buf =>
    exact resultShape_unlessTooLong cfg buf (resultShape_readCheckResult slave expfc explen buf)
  | chkWr req buf => exact resultShape_unlessTooLong cfg buf (resultShape_statusOnly _)
  | _ => exact resultShape_statusOnly _

theorem inv_of_result_eq_none {s : State} (h : s.result = none) : s.Inv := by
  simp [State.Inv, h]

theorem inv_of_result_eq_some {s : State} {r : Result} (h : s.result = some r) (hr : ResultShape r) :
    s.Inv := by
  simpa [State.Inv, h] using hr

/-- Settles O48: a step leaves either no record or the record of the command it performed, and that one
has its shape. -/
theorem stepKeepsTheResultShape : Obligations.StepKeepsTheResultShape := by
  intro s t _ hstep
  obtain ⟨-, h⟩ | ⟨rest, -, h⟩ | ⟨c, rest, -, h⟩ := step_cases s <;>
    obtain rfl := Host.Outcome.next.inj (h.symm.trans hstep)
  · exact inv_of_result_eq_none rfl
  · exact inv_of_result_eq_none rfl
  · exact inv_of_result_eq_some rfl (resultShape_resultOf s.config s.crc (decode c))

/-- Settles O49: at reset there is no record. -/
theorem resetHasTheResultShape : Obligations.ResetHasTheResultShape :=
  inv_of_result_eq_none State.reset_result

/-! ## The command record (10_state.md R26) -/

/-- The decoder takes OP and the operand fields that the command reads, and nothing else. -/
theorem decode_eq_of_sameOperands {c d : Command} (hop : d.op = c.op)
    (h : SameOperands (decode c) d c) : decode d = decode c := by
  unfold decode at h ⊢
  rw [hop]
  split at h <;> simp_all [SameOperands]

/-- Settles O7: the two records decode to the same command. -/
theorem unreadFieldsHaveNoEffect : Obligations.UnreadFieldsHaveNoEffect := by
  intro s c d rest hop hsame
  rw [step_command (c := d) rfl, step_command (c := c) rfl, decode_eq_of_sameOperands hop hsame]

/-! ## Which command sets which field (10_state.md R27) -/

@[simp] theorem buildResult_chk (slave : Byte) (f : List Byte) : (buildResult slave f).chk = none := by
  unfold buildResult
  split <;> rfl

@[simp] theorem buildResult_payload (slave : Byte) (f : List Byte) :
    (buildResult slave f).payload = none := by
  unfold buildResult
  split <;> rfl

@[simp] theorem buildResult_frame_isSome (slave : Byte) (f : List Byte) :
    (buildResult slave f).frame.isSome = slaveLegal slave := by
  unfold buildResult
  split <;> simp [*]

@[simp] theorem buildResult_status_eq_ok (slave : Byte) (f : List Byte) :
    (buildResult slave f).status = .ok ↔ slaveLegal slave = true := by
  unfold buildResult
  split <;> simp [*]

@[simp] theorem readCheckResult_chk (slave expfc explen : Byte) (buf : List Byte) :
    (readCheckResult slave expfc explen buf).chk = none := by
  unfold readCheckResult
  split <;> rfl

@[simp] theorem readCheckResult_frame (slave expfc explen : Byte) (buf : List Byte) :
    (readCheckResult slave expfc explen buf).frame = none := by
  unfold readCheckResult
  split <;> rfl

@[simp] theorem readCheckResult_payload_isSome (slave expfc explen : Byte) (buf : List Byte) :
    (readCheckResult slave expfc explen buf).payload.isSome = readRespOk buf slave expfc explen := by
  unfold readCheckResult
  split <;> simp [*]

@[simp] theorem readCheckResult_status_eq_ok (slave expfc explen : Byte) (buf : List Byte) :
    (readCheckResult slave expfc explen buf).status = .ok ↔
      readRespOk buf slave expfc explen = true := by
  unfold readCheckResult
  split <;> simp [*]

theorem readCheckResult_payload_length {slave expfc explen : Byte} {buf p : List Byte}
    (h : (readCheckResult slave expfc explen buf).payload = some p) : p.length = explen.toNat := by
  unfold readCheckResult at h
  split at h
  case isTrue hok =>
    obtain rfl := Option.some.inj h
    exact slice_length_of_readRespOk hok
  case isFalse => cases h

@[simp] theorem unlessTooLong_chk_isSome (cfg : Config) (buf : List Byte) (r : Result) :
    (unlessTooLong cfg buf r).chk.isSome = (!bufTooLong cfg buf && r.chk.isSome) := by
  unfold unlessTooLong
  split <;> simp [*]

@[simp] theorem unlessTooLong_frame_isSome (cfg : Config) (buf : List Byte) (r : Result) :
    (unlessTooLong cfg buf r).frame.isSome = (!bufTooLong cfg buf && r.frame.isSome) := by
  unfold unlessTooLong
  split <;> simp [*]

@[simp] theorem unlessTooLong_payload_isSome (cfg : Config) (buf : List Byte) (r : Result) :
    (unlessTooLong cfg buf r).payload.isSome = (!bufTooLong cfg buf && r.payload.isSome) := by
  unfold unlessTooLong
  split <;> simp [*]

@[simp] theorem unlessTooLong_status_eq_ok (cfg : Config) (buf : List Byte) (r : Result) :
    (unlessTooLong cfg buf r).status = .ok ↔ bufTooLong cfg buf = false ∧ r.status = .ok := by
  unfold unlessTooLong
  split <;> simp [*]

theorem payload_of_unlessTooLong {cfg : Config} {buf p : List Byte} {r : Result}
    (h : (unlessTooLong cfg buf r).payload = some p) : r.payload = some p := by
  unfold unlessTooLong at h
  split at h
  · cases h
  · exact h

/-- CHK is set by CRC_READ and by a CRC_BLOCK that the port can carry. -/
theorem resultOf_chk_isSome_iff (cfg : Config) (crc : U16) (i : Instr) :
    (resultOf cfg crc i).chk.isSome = true ↔
      i = .crcRead ∨ ∃ buf, i = .crcBlock buf ∧ buf.length ≤ cfg.bufMax := by
  cases i with
  | crcBlock buf => simp [resultOf, bufTooLong_eq_false_iff]
  | _ => simp [resultOf]

/-- FRAME is set by the build commands that end with OK. -/
theorem resultOf_frame_isSome_iff (cfg : Config) (crc : U16) (i : Instr) :
    (resultOf cfg crc i).frame.isSome = true ↔
      i.buildSlave.isSome = true ∧ (resultOf cfg crc i).status = .ok := by
  cases i <;> simp [resultOf, Instr.buildSlave]

/-- PAYLOAD is set by a CHK_RD that ends with OK. -/
theorem resultOf_payload_isSome_iff (cfg : Config) (crc : U16) (i : Instr) :
    (resultOf cfg crc i).payload.isSome = true ↔
      (∃ slave expfc explen buf, i = .chkRd slave expfc explen buf) ∧
        (resultOf cfg crc i).status = .ok := by
  cases i <;> simp [resultOf]

theorem resultOf_frame_length {cfg : Config} {crc : U16} {i : Instr} {f : List Byte}
    (h : (resultOf cfg crc i).frame = some f) : f.length = 8 := by
  obtain ⟨hframe, -, -⟩ := resultShape_resultOf cfg crc i
  obtain ⟨-, -, -, hlength, -⟩ := hframe f h
  exact hlength

theorem resultOf_chkRd_payload_length {cfg : Config} {crc : U16} {slave expfc explen : Byte}
    {buf p : List Byte} (h : (resultOf cfg crc (.chkRd slave expfc explen buf)).payload = some p) :
    p.length = explen.toNat :=
  readCheckResult_payload_length (payload_of_unlessTooLong h)

/-- Settles O39: one lemma about `resultOf` for each clause. -/
theorem resultFieldsAreSetByTheirCommands : Obligations.ResultFieldsAreSetByTheirCommands := by
  intro i s
  refine ⟨_, _, exec_eq i s, State.setResult_result _ _, resultOf_chk_isSome_iff _ _ i,
    resultOf_frame_isSome_iff _ _ i, fun f => resultOf_frame_length,
    resultOf_payload_isSome_iff _ _ i, ?_⟩
  rintro slave expfc explen buf p rfl hp
  exact resultOf_chkRd_payload_length hp

/-! ## CRC and what reaches a later command (10_state.md R20, R21) -/

theorem crcAfter_of_not_writer {i : Instr} (crc : U16) (hinit : i ≠ .crcInit)
    (hupdate : ∀ din, i ≠ .crcUpdate din) : crcAfter crc i = crc := by
  cases i with
  | crcInit => exact absurd rfl hinit
  | crcUpdate din => exact absurd rfl (hupdate din)
  | _ => rfl

/-- Only CRC_READ shows CRC in its record. -/
theorem resultOf_crc_irrelevant {i : Instr} (cfg : Config) (c d : U16) (hread : i ≠ .crcRead) :
    resultOf cfg c i = resultOf cfg d i := by
  cases i with
  | crcRead => exact absurd rfl hread
  | _ => rfl

/-- Settles O45: CRC after a command is `crcAfter`, and `resultOf` shows CRC in CRC_READ alone. -/
theorem crcRegisterAccess : Obligations.CrcRegisterAccess := by
  refine ⟨rfl, fun i s => ?_, fun i s v hread _ => ?_⟩
  · exact ⟨_, exec_eq i s, rfl, crcAfter_of_not_writer s.crc⟩
  · refine ⟨_, _, exec_eq i s, exec_eq i _, ?_, ?_⟩
    · exact congrArg some (resultOf_crc_irrelevant s.config v s.crc hread)
    · rintro rfl
      rfl

/-- Settles O47: the only other thing a command writes is its record, which no command reads. -/
theorem nothingButCrcSurvivesACommand : Obligations.NothingButCrcSurvivesACommand := by
  intro i j s
  exact ⟨_, exec_eq i s, exec_result_irrelevant j (s.setCrc (crcAfter s.crc i)) _⟩

/-- Settles O52: each of the three kinds of step says whether a record stands after it. -/
theorem statusIsNotKeptAfterTheCommand : Obligations.StatusIsNotKeptAfterTheCommand := by
  intro s
  have hbefore {t : State} (h : step s = .next t) (before : Option Result) :
      step { s with result := before } = .next t :=
    (step_result_irrelevant s before).trans h
  obtain ⟨hp, h⟩ | ⟨rest, hp, h⟩ | ⟨c, rest, hp, h⟩ := step_cases s
  · exact ⟨_, h, by simp [hp], hbefore h⟩
  · exact ⟨_, h, by simp [hp], hbefore h⟩
  · exact ⟨_, h, by simp [hp], hbefore h⟩

/-! ## Reset (10_state.md R30) -/

/-- Settles O1. -/
theorem resetLeavesSeedAndNoResult : Obligations.ResetLeavesSeedAndNoResult :=
  ⟨State.reset_crc, State.reset_result⟩

/-- Settles O2. -/
theorem idleAndResetStepsAreTheModelsChoice : Obligations.IdleAndResetStepsAreTheModelsChoice :=
  ⟨State.reset_pending, fun _ => step_idle, fun _ _ => step_reset⟩

end Sys2Proof.Machine
end

section
/-! Byte order and the order of commands (20_memory.md R42, R43, R46, R48). -/

namespace Sys2Proof.Machine

/-! ## The order of commands (20_memory.md R48) -/

/-- A presented command changes CRC and the result record, and is taken from the inputs. -/
theorem step_command_eq {s : State} {c : Command} {rest : List Input}
    (h : s.pending = .command c :: rest) :
    step s = .next { s with
      crc := crcAfter s.crc (decode c)
      result := some (resultOf s.config s.crc (decode c))
      pending := rest } :=
  (step_command h).trans (exec_eq (decode c) _)

/-- Commands at the head of the inputs are performed in order, and what stands behind them is left,
whether commands or resets. -/
theorem run_commands (first : List Command) {rest : List Input} {s : State}
    (h : s.pending = first.map .command ++ rest) :
    ∃ t, run first.length s = .next t ∧ t.pending = rest ∧ t.config = s.config ∧
      t.crc = (first.map decode).foldl crcAfter s.crc := by
  induction first generalizing s with
  | nil => exact ⟨s, run_zero s, h, rfl, rfl⟩
  | cons c cs ih =>
    have hstep := step_command_eq (rest := cs.map .command ++ rest) h
    rw [List.length_cons, run_succ_of_step hstep]
    exact ih rfl

/-- Settles O22: with nothing pending, the commands presented are all the inputs. -/
theorem commandsTakeEffectInTheOrderPresented : Obligations.CommandsTakeEffectInTheOrderPresented := by
  intro s first later hpending
  exact run_commands first (s := s.present (first ++ later)) (by simp [hpending])

/-! ## Idempotence (20_memory.md R46) -/

/-- CRC_INIT writes a constant, and CRC_UPDATE alone makes the new CRC from the old. -/
theorem crcAfter_crcAfter {i : Instr} (crc : U16) (hupdate : ∀ din, i ≠ .crcUpdate din) :
    crcAfter (crcAfter crc i) i = crcAfter crc i := by
  by_cases hinit : i = .crcInit
  · subst hinit
    rfl
  · exact crcAfter_of_not_writer _ hinit hupdate

/-- CRC_READ shows CRC but does not write it; no other command shows it. -/
theorem resultOf_crcAfter (cfg : Config) (crc : U16) (i : Instr) :
    resultOf cfg (crcAfter crc i) i = resultOf cfg crc i := by
  by_cases hread : i = .crcRead
  · subst hread
    rfl
  · exact resultOf_crc_irrelevant cfg _ crc hread

/-- A second command at the state that the first one left writes the same CRC and the same record. -/
theorem exec_idempotent {i : Instr} {s t : State} (hupdate : ∀ din, i ≠ .crcUpdate din)
    (h : exec i s = .next t) : exec i t = .next t := by
  obtain rfl := Host.Outcome.next.inj ((exec_eq i s).symm.trans h)
  simp only [exec_eq, State.setResult_crc, State.setCrc_crc, State.setResult_config,
    State.setCrc_config, crcAfter_crcAfter s.crc hupdate, resultOf_crcAfter]
  rfl

/-- Settles O46: a zero byte at reset makes CRC 0x40BF, and a second one changes it again. -/
theorem onlyCrcUpdateIsNotIdempotent : Obligations.OnlyCrcUpdateIsNotIdempotent := by
  refine ⟨fun i s hupdate => ?_, ?_⟩
  · refine ⟨_, exec_eq i s, exec_idempotent hupdate (exec_eq i s), fun hinit => ?_⟩
    rw [crcAfter_of_not_writer s.crc hinit hupdate]
    rfl
  · have honce : crcStep State.reset.crc 0x00 = 0x40BF := by decide
    have htwice : crcStep 0x40BF 0x00 ≠ 0x40BF := by decide
    refine ⟨State.reset, _, _, 0x00, exec_eq _ _, exec_eq _ _, ?_⟩
    simpa only [State.setResult_crc, State.setCrc_crc, crcAfter, honce] using htwice

/-! ## Byte order (20_memory.md R42, R43) -/

/-- The checksum is the CRC value with its bytes swapped, so high byte first it is `crcBytes`. -/
theorem be16_checksum (s : List Byte) : be16 (checksum s) = crcBytes s := by
  simp [be16, checksum, swap16, crcBytes]

theorem appendCrc_take_length (s : List Byte) : (appendCrc s).take s.length = s :=
  List.take_left

/-- Behind the covered bytes, byte `k` of a frame is byte `k` of its checksum field. -/
theorem appendCrc_getElem?_length_add (s : List Byte) (k : Nat) :
    (appendCrc s)[s.length + k]? = (crcBytes s)[k]? := by
  simp [appendCrc, List.getElem?_append_right]

/-- Settles O14: `loByte` is `[7:0]`, `hiByte` is `[15:8]`, and `crcBytes` puts them in this order. -/
theorem checksumFieldIsLowByteFirst : Obligations.ChecksumFieldIsLowByteFirst := fun s =>
  ⟨appendCrc_length s, appendCrc_take_length s, appendCrc_getElem?_length_add s 0,
    appendCrc_getElem?_length_add s 1, be16_checksum s⟩

/-- `rd16be` reads at an index what `be16` put there. -/
theorem rd16be_of_be16 {s : List Byte} {k : Nat} {v : U16} (hhi : s[k]? = some (hiByte v))
    (hlo : s[k + 1]? = some (loByte v)) : rd16be s k = some v := by
  simp [rd16be, hhi, hlo]

theorem rd16be_buildFrame_two (slave fc : Byte) (w1 w2 : U16) :
    rd16be (buildFrame slave fc w1 w2) 2 = some w1 :=
  rd16be_of_be16 rfl rfl

theorem rd16be_buildFrame_four (slave fc : Byte) (w1 w2 : U16) :
    rd16be (buildFrame slave fc w1 w2) 4 = some w2 :=
  rd16be_of_be16 rfl rfl

/-- Settles O28. -/
theorem requestFieldsReadBackBigEndian : Obligations.RequestFieldsReadBackBigEndian :=
  ⟨fun _ => rfl, fun slave fc regaddr w =>
    ⟨rd16be_buildFrame_two slave fc regaddr w, rd16be_buildFrame_four slave fc regaddr w⟩⟩

end Sys2Proof.Machine
end

section
/-! The encoding of commands, and what rests on it (30_encoding.md). -/

namespace Sys2Proof.Machine

/-! ## Decoder and encoder (30_encoding.md R60, R61) -/

@[simp] theorem blankCommand_op (op : BitVec 4) : (blankCommand op).op = op := rfl

@[simp] theorem encode_op (i : Instr) : (encode i).op = opcode i := by
  cases i <;> rfl

@[simp] theorem decode_encode (i : Instr) : decode (encode i) = i := by
  cases i <;> simp [decode, encode, opcode]

/-- A record that carries the OP of `i` and the operands that `i` reads is decoded to `i`. -/
theorem decode_eq_of_opcode {c : Command} {i : Instr} (hop : c.op = opcode i)
    (hsame : SameOperands i c (encode i)) : decode c = i := by
  have hread : SameOperands (decode (encode i)) c (encode i) := by rwa [decode_encode]
  rw [decode_eq_of_sameOperands (hop.trans (encode_op i).symm) hread, decode_encode]

/-- Of the operand fields, the encoder writes those that the decoder read. -/
theorem sameOperands_encode_decode (c : Command) :
    SameOperands (decode c) (encode (decode c)) c := by
  unfold decode
  split <;> simp [SameOperands, encode]

/-- Each of the sixteen OP values selects the row that carries it. -/
theorem opcode_decode_blankCommand (op : BitVec 4) : opcode (decode (blankCommand op)) = op := by
  revert op
  decide

/-- OP alone selects the row, so any record may be looked at as a blank one. -/
theorem opcode_decode (c : Command) : opcode (decode c) = c.op := by
  have hrow : opcode (decode c) = opcode (decode (blankCommand c.op)) := by
    unfold decode blankCommand
    split <;> simp [*, opcode]
  exact hrow.trans (opcode_decode_blankCommand c.op)

/-- Settles O6: OP selects the row, and of the operand fields the encoder writes those that this row
reads. -/
theorem decodeOfEncodeIsTheCommand : Obligations.DecodeOfEncodeIsTheCommand :=
  ⟨fun i => ⟨decode_encode i, encode_op i⟩,
    fun c => ⟨(encode_op (decode c)).trans (opcode_decode c), sameOperands_encode_decode c⟩⟩

/-! ## The command map (30_encoding.md R60, R61) -/

/-- The reserved rows are told by OP alone, one lemma for each command. -/
theorem isReserved_iff_opcode (i : Instr) :
    i.isReserved = true ↔ opcode i = 0x0 ∨ 0xA ≤ (opcode i).toNat := by
  cases i with
  | crcInit => exact Laws.ReservedOpcode.crcInit
  | crcUpdate din => exact Laws.ReservedOpcode.crcUpdate din
  | crcRead => exact Laws.ReservedOpcode.crcRead
  | crcBlock buf => exact Laws.ReservedOpcode.crcBlock buf
  | bldRh slave regaddr => exact Laws.ReservedOpcode.bldRh slave regaddr
  | bldRi slave regaddr => exact Laws.ReservedOpcode.bldRi slave regaddr
  | bldWs slave regaddr value => exact Laws.ReservedOpcode.bldWs slave regaddr value
  | chkRd slave expfc explen buf => exact Laws.ReservedOpcode.chkRd slave expfc explen buf
  | chkWr req buf => exact Laws.ReservedOpcode.chkWr req buf
  | reserved0 => exact Laws.ReservedOpcode.reserved0
  | reservedA => exact Laws.ReservedOpcode.reservedA
  | reservedB => exact Laws.ReservedOpcode.reservedB
  | reservedC => exact Laws.ReservedOpcode.reservedC
  | reservedD => exact Laws.ReservedOpcode.reservedD
  | reservedE => exact Laws.ReservedOpcode.reservedE
  | reservedF => exact Laws.ReservedOpcode.reservedF

theorem isReserved_decode_iff (c : Command) :
    (decode c).isReserved = true ↔ c.op = 0x0 ∨ 0xA ≤ c.op.toNat := by
  rw [isReserved_iff_opcode, opcode_decode]

/-- Settles O4: each row is the command whose OP and operands the record carries. -/
theorem decoderFollowsTheCommandMap : Obligations.DecoderFollowsTheCommandMap := fun c =>
  ⟨fun h => decode_eq_of_opcode h trivial,
    fun h => decode_eq_of_opcode h rfl,
    fun h => decode_eq_of_opcode h trivial,
    fun h => decode_eq_of_opcode h rfl,
    fun h => decode_eq_of_opcode h ⟨rfl, rfl⟩,
    fun h => decode_eq_of_opcode h ⟨rfl, rfl⟩,
    fun h => decode_eq_of_opcode h ⟨rfl, rfl, rfl⟩,
    fun h => decode_eq_of_opcode h ⟨rfl, rfl, rfl, rfl⟩,
    fun h => decode_eq_of_opcode h ⟨rfl, rfl⟩,
    (isReserved_decode_iff c).symm⟩

/-- A table word is decoded to the row whose record it stands for. -/
theorem decodeTableWord_eq {w : Nat} {i : Instr} (nbits : Nat) (h : commandOfWord w = encode i) :
    decodeTableWord nbits w = some i := by
  rw [decodeTableWord, h, decode_encode]

/-- Settles O5: the record of each word is the one that its row is encoded to. -/
theorem tableWordsDecodeToTheirRows : Obligations.TableWordsDecodeToTheirRows :=
  ⟨decodeTableWord_eq 8 rfl, decodeTableWord_eq 8 rfl, decodeTableWord_eq 8 rfl,
    decodeTableWord_eq 8 rfl, decodeTableWord_eq 8 rfl, decodeTableWord_eq 8 rfl⟩

/-- Settles O51: each expansion is the definition's own, with the function codes as numbers. -/
theorem pseudoInstructionsExpand : Obligations.PseudoInstructionsExpand :=
  ⟨fun _ _ _ => ⟨rfl, rfl⟩, fun _ => rfl⟩

/-! ## Commands that do not write CRC -/

theorem crcAfter_of_writesCrc_eq_false {i : Instr} (crc : U16) (h : writesCrc i = false) :
    crcAfter crc i = crc :=
  crcAfter_of_not_writer crc (by rintro rfl; cases h) (by rintro din rfl; cases h)

/-- A command that does not write CRC changes the result record only (10_state.md R21). -/
theorem exec_of_writesCrc_eq_false {i : Instr} (s : State) (h : writesCrc i = false) :
    exec i s = .next (s.setResult (resultOf s.config s.crc i)) := by
  rw [exec_eq, crcAfter_of_writesCrc_eq_false s.crc h]
  rfl

/-! ## Reserved OP values (30_encoding.md R62) -/

theorem writesCrc_of_isReserved {i : Instr} (h : i.isReserved = true) : writesCrc i = false := by
  cases i with
  | crcInit => cases h
  | crcUpdate din => cases h
  | _ => rfl

theorem resultOf_of_isReserved {i : Instr} (cfg : Config) (crc : U16) (h : i.isReserved = true) :
    resultOf cfg crc i = Result.statusOnly .errCmd :=
  match i, h with
  | .reserved0, _ => rfl
  | .reservedA, _ => rfl
  | .reservedB, _ => rfl
  | .reservedC, _ => rfl
  | .reservedD, _ => rfl
  | .reservedE, _ => rfl
  | .reservedF, _ => rfl

theorem exec_of_isReserved {i : Instr} (s : State) (h : i.isReserved = true) :
    exec i s = .next (s.setResult (Result.statusOnly .errCmd)) := by
  rw [exec_of_writesCrc_eq_false s (writesCrc_of_isReserved h), resultOf_of_isReserved _ _ h]

/-- Settles O8: each of the seven constructors is a reserved row, and so is what a record with a reserved
OP is decoded to. -/
theorem reservedOpcodesEndWithErrCmd : Obligations.ReservedOpcodesEndWithErrCmd := by
  refine ⟨fun i hi s => exec_of_isReserved s ?_, fun c s hop => exec_of_isReserved s ?_⟩
  · revert i
    decide
  · exact (isReserved_decode_iff c).2 hop

/-! ## Over-long BUF (30_encoding.md R63) -/

theorem writesCrc_of_bufOperand_eq_some {i : Instr} {buf : List Byte}
    (h : i.bufOperand = some buf) : writesCrc i = false := by
  cases i with
  | crcInit => cases h
  | crcUpdate din => cases h
  | _ => rfl

theorem unlessTooLong_of_overlong {cfg : Config} {buf : List Byte} (r : Result)
    (h : cfg.bufMax < buf.length) : unlessTooLong cfg buf r = Result.statusOnly .errCmd :=
  if_pos ((bufTooLong_iff cfg buf).2 h)

theorem unlessTooLong_of_fits {cfg : Config} {buf : List Byte} (r : Result)
    (h : buf.length ≤ cfg.bufMax) : unlessTooLong cfg buf r = r :=
  if_neg (Bool.not_eq_true _ ▸ (bufTooLong_eq_false_iff cfg buf).2 h)

theorem resultOf_of_overlong {cfg : Config} {i : Instr} {buf : List Byte} (crc : U16)
    (hbuf : i.bufOperand = some buf) (hlong : cfg.bufMax < buf.length) :
    resultOf cfg crc i = Result.statusOnly .errCmd := by
  cases i with
  | crcBlock =>
    cases hbuf
    exact unlessTooLong_of_overlong _ hlong
  | chkRd =>
    cases hbuf
    exact unlessTooLong_of_overlong _ hlong
  | chkWr =>
    cases hbuf
    exact unlessTooLong_of_overlong _ hlong
  | _ => cases hbuf

theorem sameOperands_with_buf {i : Instr} (c : Command) (buf : List Byte)
    (h : i.bufOperand = none) : SameOperands i { c with buf := buf } c := by
  cases i with
  | crcBlock => cases h
  | chkRd => cases h
  | chkWr => cases h
  | _ => simp [SameOperands]

/-- Settles O9: an over-long BUF decides the record of a command that reads it, and the decoder of
another command does not look at BUF. -/
theorem overlongBufMattersOnlyWhereBufIsRead : Obligations.OverlongBufMattersOnlyWhereBufIsRead := by
  refine ⟨fun c buf s hbuf hlong => ?_, fun c buf hnone => ?_⟩
  · rw [exec_of_writesCrc_eq_false s (writesCrc_of_bufOperand_eq_some hbuf),
      resultOf_of_overlong s.crc hbuf hlong]
    rfl
  · exact decode_eq_of_sameOperands rfl (sameOperands_with_buf c buf hnone)

/-! ## CRC_STREAM (30_encoding.md R76) -/

theorem map_decode_map_encode (is : List Instr) : (is.map encode).map decode = is := by
  simp [Function.comp_def]

/-- The last of several steps, taken off the end. -/
theorem run_succ_of_run_step {n : Nat} {s t u : State} (hrun : run n s = .next t)
    (hstep : step t = .next u) : run (n + 1) s = .next u := by
  induction n generalizing s with
  | zero =>
    obtain rfl : s = t := Host.Outcome.next.inj hrun
    exact run_succ_of_step hstep
  | succ n ih =>
    cases h : step s with
    | next v =>
      rw [run_succ_of_step h] at hrun ⊢
      exact ih hrun
    | fault e => cases e
    | refused e => simp [run, h] at hrun

/-- The whole state after the commands `is` and then `i`, presented to a block with nothing pending: CRC
as all of them left it, the record of `i`. -/
theorem run_present_encode {s : State} (hpending : s.pending = []) (is : List Instr) (i : Instr) :
    run (is.length + 1) (s.present ((is ++ [i]).map encode)) = .next { s with
      crc := crcAfter (is.foldl crcAfter s.crc) i
      result := some (resultOf s.config (is.foldl crcAfter s.crc) i) } := by
  obtain ⟨t, hrun, hrest, hconfig, hcrc⟩ :=
    run_commands (is.map encode) (rest := [.command (encode i)])
      (s := s.present ((is ++ [i]).map encode)) (by simp [hpending])
  rw [List.length_map] at hrun
  rw [run_succ_of_run_step hrun (step_command_eq hrest), hcrc, hconfig, map_decode_map_encode,
    decode_encode]
  simp [hpending]

theorem foldl_crcAfter_map_crcUpdate (crc : U16) (bytes : List Byte) :
    (bytes.map Instr.crcUpdate).foldl crcAfter crc = crcFold crc bytes :=
  List.foldl_map

/-- CRC_INIT makes the register's earlier value irrelevant, and CRC_READ shows what the updates left. -/
theorem run_crcStream {s : State} (hpending : s.pending = []) (bytes : List Byte) :
    run (bytes.length + 2) (s.present ((expand (.crcStream bytes)).map encode)) = .next { s with
      crc := crc16 bytes
      result := some (Result.withChk (checksum bytes)) } := by
  have hfold : (Instr.crcInit :: bytes.map .crcUpdate).foldl crcAfter s.crc = crc16 bytes :=
    foldl_crcAfter_map_crcUpdate crcSeed bytes
  have hrun := run_present_encode hpending (Instr.crcInit :: bytes.map .crcUpdate) .crcRead
  rw [hfold, List.length_cons, List.length_map] at hrun
  exact hrun

theorem exec_crcBlock_of_fits {s : State} {buf : List Byte} (h : buf.length ≤ s.config.bufMax) :
    exec (.crcBlock buf) s = .next (s.setResult (Result.withChk (checksum buf))) := by
  rw [exec_of_writesCrc_eq_false s rfl, resultOf, unlessTooLong_of_fits _ h]

/-- Settles O21: CRC_READ shows, byte-swapped, what the updates folded, and CRC_BLOCK folds the same
bytes on a copy. -/
theorem streamedChecksumEqualsBlockChecksum : Obligations.StreamedChecksumEqualsBlockChecksum := by
  intro s bytes hpending
  exact ⟨_, run_crcStream hpending bytes, rfl, hpending, rfl,
    fun hfits => ⟨_, exec_crcBlock_of_fits hfits, rfl, rfl⟩⟩

/-! ## Signed values (30_encoding.md R73) -/

theorem toInt_valuePattern {v : Int} (hlow : -32768 ≤ v) (hhigh : v ≤ 32767) :
    (valuePattern v).toInt = v :=
  BitVec.toInt_ofInt_eq_self (by decide) hlow (Int.lt_add_one_of_le hhigh)

theorem buildResult_of_legal {slave : Byte} (f : List Byte) (hlow : 1 ≤ slave.toNat)
    (hhigh : slave.toNat ≤ 247) : buildResult slave f = Result.withFrame f :=
  if_pos ((slaveLegal_iff slave).2 ⟨hlow, hhigh⟩)

theorem exec_bldWs_of_legal {slave : Byte} (regaddr value : U16) (s : State)
    (hlow : 1 ≤ slave.toNat) (hhigh : slave.toNat ≤ 247) :
    exec (.bldWs slave regaddr value) s =
      .next (s.setResult (Result.withFrame (buildFrame slave fcWriteSingle regaddr value))) := by
  rw [exec_of_writesCrc_eq_false s rfl, resultOf, buildResult_of_legal _ hlow hhigh]

/-- Settles O29: VALUE stands in bytes 4-5 as given, and the pattern read as signed is the value. -/
theorem signedValueSurvivesTheWriteFrame : Obligations.SignedValueSurvivesTheWriteFrame := by
  intro s slave regaddr v hslaveLow hslaveHigh hlow hhigh
  refine ⟨_, _, exec_bldWs_of_legal regaddr (valuePattern v) s hslaveLow hslaveHigh, rfl, ?_⟩
  rw [rd16be_buildFrame_four, Option.map_some, toInt_valuePattern hlow hhigh]

/-! ## Read responses (30_encoding.md R70, 42_frame_check.md R140) -/

@[simp] theorem readResponse_length (slave fc : Byte) (payload : List Byte) :
    (readResponse slave fc payload).length = payload.length + 5 := by
  simp [readResponse]

/-- A payload's length byte declares its length as long as the length is that of a byte. -/
theorem ofNat_length_eq {payload : List Byte} {len : Byte} (h : payload.length = len.toNat) :
    BitVec.ofNat 8 payload.length = len := by
  rw [h, BitVec.ofNat_toNat, BitVec.setWidth_eq]

theorem slice_readResponse (slave fc : Byte) (payload : List Byte) :
    slice (readResponse slave fc payload) 3 payload.length = payload := by
  simp [slice, readResponse, appendCrc]

/-- The checksum of a sequence is intact when its last two bytes are those of 20_memory.md R43. -/
theorem eq_appendCrc_take_iff {b : List Byte} {k : Nat} (h : b.length = k + 2) :
    b = appendCrc (b.take k) ↔
      b[k]? = some (loByte (crc16 (b.take k))) ∧ b[k + 1]? = some (hiByte (crc16 (b.take k))) := by
  have hdrop : b.drop k = [b[k], b[k + 1]] := by
    rw [List.drop_eq_getElem_cons, List.drop_eq_getElem_cons, List.drop_eq_nil_of_le (by omega)]
  calc b = appendCrc (b.take k)
      ↔ b.take k ++ b.drop k = b.take k ++ crcBytes (b.take k) := by
        rw [List.take_append_drop, appendCrc]
    _ ↔ _ := by
        rw [List.append_cancel_left_eq, hdrop, crcBytes, List.getElem?_eq_getElem (by omega),
          List.getElem?_eq_getElem (by omega)]
        simp

/-- The conditions of 42_frame_check.md R140. Condition (f) is left out: it follows from (a) and (e)
(90_conflicts.md C4). -/
theorem readRespOk_iff (b : List Byte) (slave fc len : Byte) :
    readRespOk b slave fc len = true ↔
      b.length = len.toNat + 5 ∧ b = appendCrc (b.take (len.toNat + 3)) ∧
        b[0]? = some slave ∧ b[1]? = some fc ∧ b[2]? = some len := by
  by_cases hlen : b.length = len.toNat + 5
  · have hinside : 2 + len.toNat < len.toNat + 3 := by omega
    rw [eq_appendCrc_take_iff hlen]
    simp only [readRespOk, hlen, if_true, Bool.and_eq_true, beq_iff_eq, true_and, and_assoc]
    simp +contextual [hinside]
  · simp [readRespOk, hlen]

theorem take_add_three {b : List Byte} {x y z : Byte} (n : Nat) (hx : b[0]? = some x)
    (hy : b[1]? = some y) (hz : b[2]? = some z) : b.take (n + 3) = [x, y, z] ++ slice b 3 n := by
  match b with
  | [] => cases hx
  | [_] => cases hy
  | [_, _] => cases hz
  | _ :: _ :: _ :: rest =>
    obtain rfl := Option.some.inj hx
    obtain rfl := Option.some.inj hy
    obtain rfl := Option.some.inj hz
    rfl

theorem eq_readResponse_of_readRespOk {b : List Byte} {slave fc len : Byte}
    (h : readRespOk b slave fc len = true) :
    b = readResponse slave fc (slice b 3 len.toNat) := by
  obtain ⟨-, hcrc, hslave, hfc, hdeclared⟩ := (readRespOk_iff b slave fc len).1 h
  rw [readResponse, ofNat_length_eq (slice_length_of_readRespOk h),
    ← take_add_three len.toNat hslave hfc hdeclared]
  exact hcrc

theorem readRespOk_readResponse {slave fc len : Byte} {payload : List Byte}
    (h : payload.length = len.toNat) :
    readRespOk (readResponse slave fc payload) slave fc len = true := by
  have hcovered : (readResponse slave fc payload).take (len.toNat + 3) =
      [slave, fc, BitVec.ofNat 8 payload.length] ++ payload := by
    rw [← h]
    exact appendCrc_take_length ([slave, fc, BitVec.ofNat 8 payload.length] ++ payload)
  refine (readRespOk_iff _ slave fc len).2 ⟨by rw [readResponse_length, h], ?_, rfl, rfl, ?_⟩
  · rw [hcovered, readResponse]
  · exact congrArg some (ofNat_length_eq h)

theorem exec_chkRd_of_fits {buf : List Byte} {s : State} (slave expfc explen : Byte)
    (h : buf.length ≤ s.config.bufMax) :
    exec (.chkRd slave expfc explen buf) s =
      .next (s.setResult (readCheckResult slave expfc explen buf)) := by
  rw [exec_of_writesCrc_eq_false s rfl, resultOf, unlessTooLong_of_fits _ h]

theorem readCheckResult_of_ok {slave expfc explen : Byte} {buf : List Byte}
    (h : readRespOk buf slave expfc explen = true) :
    readCheckResult slave expfc explen buf = Result.withPayload (slice buf 3 explen.toNat) :=
  if_pos h

theorem readCheckResult_of_not_ok {slave expfc explen : Byte} {buf : List Byte}
    (h : ¬ readRespOk buf slave expfc explen = true) :
    readCheckResult slave expfc explen buf = Result.statusOnly .reject :=
  if_neg h

/-- Settles O32: `readRespOk` holds of the response frames alone, and no BUF_MAX cuts one off. -/
theorem readCheckAcceptsExactlyTheResponseFrames :
    Obligations.ReadCheckAcceptsExactlyTheResponseFrames := by
  intro s slave expfc explen
  refine ⟨fun payload hlen => ?_, fun buf hfits hnot => ?_⟩
  · have hok := readRespOk_readResponse (slave := slave) (fc := expfc) hlen
    have hfits := (length_le_of_readRespOk hok).trans (bufMax_ge s.config)
    rw [exec_chkRd_of_fits slave expfc explen hfits, readCheckResult_of_ok hok, ← hlen,
      slice_readResponse]
    rfl
  · have hno : ¬ readRespOk buf slave expfc explen = true := fun hok =>
      hnot ⟨_, slice_length_of_readRespOk hok, eq_readResponse_of_readRespOk hok⟩
    rw [exec_chkRd_of_fits slave expfc explen hfits, readCheckResult_of_not_ok hno]
    rfl

/-! ## STATUS (30_encoding.md R64) -/

theorem Status.ofCode_code (st : Status) : Status.ofCode st.code = st := by
  cases st <;> rfl

theorem Status.code_ofCode (v : BitVec 2) : (Status.ofCode v).code = v := by
  revert v
  decide

@[simp] theorem Status.ofCheck_ne_errAddr (accepted : Bool) :
    Status.ofCheck accepted ≠ .errAddr := by
  cases accepted <;> decide

@[simp] theorem Status.ofCheck_ne_errCmd (accepted : Bool) :
    Status.ofCheck accepted ≠ .errCmd := by
  cases accepted <;> decide

@[simp] theorem buildResult_status_eq_errAddr (slave : Byte) (f : List Byte) :
    (buildResult slave f).status = .errAddr ↔ slaveLegal slave = false := by
  unfold buildResult
  split <;> simp [*]

@[simp] theorem buildResult_status_ne_reject (slave : Byte) (f : List Byte) :
    (buildResult slave f).status ≠ .reject := by
  unfold buildResult
  split <;> simp

@[simp] theorem buildResult_status_ne_errCmd (slave : Byte) (f : List Byte) :
    (buildResult slave f).status ≠ .errCmd := by
  unfold buildResult
  split <;> simp

theorem readCheckResult_status (slave expfc explen : Byte) (buf : List Byte) :
    (readCheckResult slave expfc explen buf).status =
      Status.ofCheck (readRespOk buf slave expfc explen) := by
  unfold readCheckResult Status.ofCheck
  split <;> rfl

@[simp] theorem unlessTooLong_status_eq_errCmd (cfg : Config) (buf : List Byte) (r : Result) :
    (unlessTooLong cfg buf r).status = .errCmd ↔
      bufTooLong cfg buf = true ∨ r.status = .errCmd := by
  unfold unlessTooLong
  split <;> simp [*]

/-- The length check puts no STATUS but ERR_CMD in place of another. -/
theorem status_of_unlessTooLong {cfg : Config} {buf : List Byte} {r : Result} {st : Status}
    (hst : st ≠ .errCmd) (h : (unlessTooLong cfg buf r).status = st) : r.status = st := by
  unfold unlessTooLong at h
  split at h
  · exact absurd h.symm hst
  · exact h

/-- Only a response check ends with REJECT (60_exceptions.md R163). -/
theorem checksResponse_of_status_eq_reject {cfg : Config} {crc : U16} {i : Instr}
    (h : (resultOf cfg crc i).status = .reject) : checksResponse i = true := by
  cases i with
  | chkRd => rfl
  | chkWr => rfl
  | crcBlock => cases status_of_unlessTooLong (by decide) h
  | bldRh => exact absurd h (buildResult_status_ne_reject _ _)
  | bldRi => exact absurd h (buildResult_status_ne_reject _ _)
  | bldWs => exact absurd h (buildResult_status_ne_reject _ _)
  | _ => cases h

/-- A command that reads BUF builds nothing, so it has no address to refuse. -/
theorem status_ne_errAddr_of_bufOperand {cfg : Config} {crc : U16} {i : Instr} {buf : List Byte}
    (hbuf : i.bufOperand = some buf) : (resultOf cfg crc i).status ≠ .errAddr := by
  intro h
  cases i with
  | crcBlock => cases status_of_unlessTooLong (by decide) h
  | chkRd slave expfc explen b =>
    have hcheck := status_of_unlessTooLong (by decide) h
    rw [readCheckResult_status] at hcheck
    exact Status.ofCheck_ne_errAddr _ hcheck
  | chkWr req b => exact Status.ofCheck_ne_errAddr _ (status_of_unlessTooLong (by decide) h)
  | _ => cases hbuf

/-- ERR_ADDR is the answer of a build command to an illegal address, and of nothing else
(60_exceptions.md R161). -/
theorem resultOf_status_eq_errAddr_iff (cfg : Config) (crc : U16) (i : Instr) :
    (resultOf cfg crc i).status = .errAddr ↔
      ∃ slave, i.buildSlave = some slave ∧ slaveLegal slave = false := by
  cases i with
  | crcBlock => simp [status_ne_errAddr_of_bufOperand, Instr.buildSlave, Instr.bufOperand]
  | chkRd => simp [status_ne_errAddr_of_bufOperand, Instr.buildSlave, Instr.bufOperand]
  | chkWr => simp [status_ne_errAddr_of_bufOperand, Instr.buildSlave, Instr.bufOperand]
  | _ => simp [resultOf, Instr.buildSlave]

theorem wellFormed_eq_false_iff {i : Instr} {buf : List Byte} (cfg : Config)
    (h : i.bufOperand = some buf) : i.wellFormed cfg = false ↔ bufTooLong cfg buf = true := by
  simp [Instr.wellFormed, h, bufTooLong]

/-- ERR_CMD is the answer to a reserved OP and to an over-long BUF (60_exceptions.md R162). -/
theorem resultOf_status_eq_errCmd_iff (cfg : Config) (crc : U16) (i : Instr) :
    (resultOf cfg crc i).status = .errCmd ↔ i.isReserved = true ∨ i.wellFormed cfg = false := by
  cases i with
  | crcBlock buf =>
    rw [wellFormed_eq_false_iff (buf := buf) cfg rfl]
    simp [resultOf, Instr.isReserved]
  | chkRd slave expfc explen buf =>
    rw [wellFormed_eq_false_iff (buf := buf) cfg rfl]
    simp [resultOf, Instr.isReserved, readCheckResult_status]
  | chkWr req buf =>
    rw [wellFormed_eq_false_iff (buf := buf) cfg rfl]
    simp [resultOf, Instr.isReserved]
  | _ => simp [resultOf, Instr.isReserved, Instr.wellFormed, Instr.bufOperand]

theorem frame_eq_none_of_status_ne_ok {cfg : Config} {crc : U16} {i : Instr}
    (h : (resultOf cfg crc i).status ≠ .ok) : (resultOf cfg crc i).frame = none := by
  rw [← Option.not_isSome_iff_eq_none, resultOf_frame_isSome_iff]
  exact fun hframe => h hframe.2

/-- Settles O38: for each STATUS value, the commands that end with it. -/
theorem statusEncodingAndWhoSetsIt : Obligations.StatusEncodingAndWhoSetsIt := by
  refine ⟨⟨rfl, rfl, rfl, rfl⟩, Status.code_ofCode, fun i s => ⟨_, _, exec_eq i s,
    State.setResult_result _ _, Status.ofCode_code _, fun hok => ?_,
    checksResponse_of_status_eq_reject, fun haddr => ⟨?_, ?_⟩,
    (resultOf_status_eq_errCmd_iff s.config s.crc i).1⟩⟩
  · by_contra hreserved
    rw [Bool.not_eq_false] at hreserved
    rw [resultOf_of_isReserved _ _ hreserved] at hok
    cases hok
  · obtain ⟨slave, hslave, -⟩ := (resultOf_status_eq_errAddr_iff s.config s.crc i).1 haddr
    exact Option.isSome_of_eq_some hslave
  · exact frame_eq_none_of_status_ne_ok (by rw [haddr]; decide)

/-! ## The assembler (30_encoding.md R75) -/

/-- A number in an unsigned field is its own pattern, and no other number is. -/
theorem ofInt_eq_iff_of_inRange {w : Nat} {n : Int} (hlow : 0 ≤ n) (hhigh : n < 2 ^ w)
    (v : BitVec w) : BitVec.ofInt w n = v ↔ n = (v.toNat : Int) := by
  rw [← BitVec.toNat_inj, BitVec.toNat_ofInt]
  have hmod : n % ((2 ^ w : Nat) : Int) = n := Int.emod_eq_of_lt hlow (by exact_mod_cast hhigh)
  rw [hmod]
  omega

theorem asmU8_eq_ok (n : Number) (b : Byte) : asmU8 n = .ok b ↔ n.value = (b.toNat : Int) := by
  have hb : b.toNat < 256 := b.isLt
  unfold asmU8
  split
  case isTrue h =>
    rw [Except.ok.injEq, ofInt_eq_iff_of_inRange h.1 (by omega)]
  case isFalse h =>
    simp only [reduceCtorEq, false_iff]
    omega

theorem asmU16_eq_ok (n : Number) (v : U16) : asmU16 n = .ok v ↔ n.value = (v.toNat : Int) := by
  have hv : v.toNat < 65536 := v.isLt
  unfold asmU16
  split
  case isTrue h =>
    rw [Except.ok.injEq, ofInt_eq_iff_of_inRange h.1 (by omega)]
  case isFalse h =>
    simp only [reduceCtorEq, false_iff]
    omega

theorem asmU8_of_outside {n : Number} (h : n.value < 0 ∨ 255 < n.value) :
    asmU8 n = .error .outOfRange :=
  if_neg (by omega)

theorem asmU16_of_outside {n : Number} (h : n.value < 0 ∨ 65535 < n.value) :
    asmU16 n = .error .outOfRange :=
  if_neg (by omega)

theorem asmValue_of_hex {n : Number} (h : n.hex = true) : asmValue n = asmU16 n :=
  if_pos h

theorem asmValue_of_decimal_inside {n : Number} (h : n.hex = false) (hlow : -32768 ≤ n.value)
    (hhigh : n.value ≤ 32767) : asmValue n = .ok (valuePattern n.value) := by
  simp [asmValue, h, hlow, hhigh]

theorem asmValue_of_decimal_outside {n : Number} (h : n.hex = false)
    (hout : n.value < -32768 ∨ 32767 < n.value) : asmValue n = .error .outOfRange := by
  have hnot : ¬ (-32768 ≤ n.value ∧ n.value ≤ 32767) := by omega
  simp [asmValue, h, hnot]

/-- A decimal value is the signed reading of its pattern. -/
theorem asmValue_of_decimal_eq_ok {n : Number} (h : n.hex = false) (v : U16) :
    asmValue n = .ok v ↔ n.value = v.toInt := by
  have hlow : -32768 ≤ v.toInt := BitVec.le_toInt v
  have hhigh : v.toInt < 32768 := BitVec.toInt_lt
  by_cases hin : -32768 ≤ n.value ∧ n.value ≤ 32767
  · rw [asmValue_of_decimal_inside h hin.1 hin.2, Except.ok.injEq, ← BitVec.toInt_inj,
      toInt_valuePattern hin.1 hin.2]
  · rw [asmValue_of_decimal_outside h (by omega)]
    simp only [reduceCtorEq, false_iff]
    omega

theorem asmBytes_eq_ok (ns : List Number) (bs : List Byte) :
    asmBytes ns = .ok bs ↔ ns.map Number.value = bs.map fun b => (b.toNat : Int) := by
  induction ns generalizing bs with
  | nil => cases bs <;> simp
  | cons n ns ih =>
    rw [asmBytes_cons_eq_ok]
    cases bs with
    | nil => simp
    | cons b bs => simp [asmU8_eq_ok, ih]

theorem value_inRange_of_asmBytes_eq_ok {ns : List Number} {bs : List Byte} {n : Number}
    (h : asmBytes ns = .ok bs) (hn : n ∈ ns) : 0 ≤ n.value ∧ n.value ≤ 255 := by
  have hmem : n.value ∈ bs.map fun b => (b.toNat : Int) :=
    (asmBytes_eq_ok ns bs).1 h ▸ List.mem_map_of_mem hn
  obtain ⟨b, -, hb⟩ := List.mem_map.1 hmem
  have hbyte : b.toNat < 256 := b.isLt
  omega

theorem asmU8_ok_or_outOfRange (n : Number) :
    (∃ b, asmU8 n = .ok b) ∨ asmU8 n = .error .outOfRange := by
  unfold asmU8
  split <;> simp

theorem asmBytes_ok_or_outOfRange (ns : List Number) :
    (∃ bs, asmBytes ns = .ok bs) ∨ asmBytes ns = .error .outOfRange := by
  induction ns with
  | nil => exact .inl ⟨[], rfl⟩
  | cons n ns ih =>
    rw [asmBytes]
    obtain ⟨b, hb⟩ | hb := asmU8_ok_or_outOfRange n
    · obtain ⟨bs, hbs⟩ | hbs := ih
      · exact .inl ⟨b :: bs, by rw [hb, hbs]; rfl⟩
      · exact .inr (by rw [hb, hbs]; rfl)
    · exact .inr (by rw [hb]; rfl)

theorem asmReq_ok_or_outOfRange (ns : List Number) :
    (∃ req, asmReq ns = .ok req) ∨ asmReq ns = .error .outOfRange := by
  obtain ⟨bs, hbs⟩ | hbs := asmBytes_ok_or_outOfRange ns
  · by_cases hsize : bs.toArray.size = 8
    · exact .inl ⟨⟨bs.toArray, hsize⟩, by rw [asmReq, hbs]; exact dif_pos hsize⟩
    · exact .inr (by rw [asmReq, hbs]; exact dif_neg hsize)
  · exact .inr (by rw [asmReq, hbs]; rfl)

theorem asmBytes_of_outside {ns : List Number} (h : ∃ n ∈ ns, n.value < 0 ∨ 255 < n.value) :
    asmBytes ns = .error .outOfRange := by
  obtain ⟨n, hn, hout⟩ := h
  refine (asmBytes_ok_or_outOfRange ns).resolve_left ?_
  rintro ⟨bs, hbs⟩
  have hin := value_inRange_of_asmBytes_eq_ok hbs hn
  omega

theorem length_eq_of_asmReq_eq_ok {ns : List Number} {req : Vector Byte 8}
    (h : asmReq ns = .ok req) : ns.length = 8 := by
  have hvalues := (asmBytes_eq_ok ns req.toList).1 ((asmReq_eq_ok ns req).1 h)
  simpa using congrArg List.length hvalues

theorem asmReq_of_outside {ns : List Number}
    (h : ns.length ≠ 8 ∨ ∃ n ∈ ns, n.value < 0 ∨ 255 < n.value) :
    asmReq ns = .error .outOfRange := by
  obtain hlength | hout := h
  · exact (asmReq_ok_or_outOfRange ns).resolve_left
      fun ⟨_, hreq⟩ => hlength (length_eq_of_asmReq_eq_ok hreq)
  · rw [asmReq, asmBytes_of_outside hout]
    rfl

/-- Settles O50: for each kind of operand, what it assembles to and what is refused. -/
theorem assemblerNeverTruncates : Obligations.AssemblerNeverTruncates :=
  ⟨asmU8_eq_ok, asmU16_eq_ok, fun _ v hdec => asmValue_of_decimal_eq_ok hdec v,
    fun _ => asmU8_of_outside, fun _ => asmU16_of_outside,
    fun _ => asmValue_of_decimal_outside,
    fun n v hhex => by rw [asmValue_of_hex hhex, asmU16_eq_ok],
    fun n hhex hout => by rw [asmValue_of_hex hhex, asmU16_of_outside hout],
    asmBytes_eq_ok, fun _ => asmBytes_of_outside,
    fun ns req => by rw [asmReq_eq_ok, asmBytes_eq_ok],
    fun _ => asmReq_of_outside⟩

end Sys2Proof.Machine
end

section
/-! The checksum functions and the CRC commands (40_crc.md), and what the check of a read response owes
to them (42_frame_check.md R140). -/

namespace Sys2Proof.Machine

/-! ## One byte folded into the register (40_crc.md R100) -/

/-- Bit `i` of an iteration is bit `i + 1` before it, flipped where the polynomial has a 1 if the low bit
was 1. -/
theorem getLsbD_crcBit (v : U16) (i : Nat) :
    (crcBit v).getLsbD i = (v.getLsbD (i + 1) ^^ (v[0] && crcPoly.getLsbD i)) := by
  rw [crcBit, BitVec.getLsbD_eq_getElem (i := 0) (by decide)]
  split <;> simp [*, Nat.add_comm]

theorem crcBit_xor (v w : U16) : crcBit (v ^^^ w) = crcBit v ^^^ crcBit w := by
  refine BitVec.eq_of_getLsbD_eq fun i _ => ?_
  simp only [getLsbD_crcBit, BitVec.getLsbD_xor, BitVec.getElem_xor, Bool.and_xor_distrib_right,
    Bool.xor_assoc, Bool.xor_left_comm (w.getLsbD (i + 1))]

/-- The polynomial has a 1 in bit 15, so bit 15 after an iteration tells the low bit before it, and with
it every other bit. -/
theorem crcBit_injective : Function.Injective crcBit := by
  intro v w h
  have hbits (i : Nat) : (v.getLsbD (i + 1) ^^ (v[0] && crcPoly.getLsbD i)) =
      (w.getLsbD (i + 1) ^^ (w[0] && crcPoly.getLsbD i)) := by
    rw [← getLsbD_crcBit, ← getLsbD_crcBit, h]
  have hlow : v[0] = w[0] := by simpa [crcPoly] using hbits 15
  refine BitVec.eq_of_getLsbD_eq fun i _ => ?_
  cases i with
  | zero => simpa using hlow
  | succ i => simpa [hlow] using hbits i

theorem crcBits_xor (n : Nat) (c d : U16) : crcBits n (c ^^^ d) = crcBits n c ^^^ crcBits n d := by
  induction n generalizing c d with
  | zero => rfl
  | succ n ih => rw [crcBits, crcBit_xor, ih, crcBits, crcBits]

theorem crcBits_injective (n : Nat) : Function.Injective (crcBits n) := by
  induction n with
  | zero => exact Function.injective_id
  | succ n ih => exact ih.comp crcBit_injective

/-- Iterations that shift out zeros alone are one shift. -/
theorem crcBits_eq_shift {n : Nat} {c : U16} (h : ∀ i < n, c.getLsbD i = false) :
    crcBits n c = c >>> n := by
  induction n generalizing c with
  | zero => rw [crcBits, BitVec.ushiftRight_zero]
  | succ n ih =>
    have hbit : crcBit c = c >>> 1 := if_neg (Bool.eq_false_iff.1 (h 0 n.succ_pos))
    have hrest (i : Nat) (hi : i < n) : (c >>> 1).getLsbD i = false := by
      simpa [Nat.add_comm] using h (i + 1) (Nat.succ_lt_succ hi)
    rw [crcBits, hbit, ih hrest, ← BitVec.shiftRight_add, Nat.add_comm]

theorem crcStep_xor (c d : U16) (a b : Byte) :
    crcStep (c ^^^ d) (a ^^^ b) = crcStep c a ^^^ crcStep d b := by
  have hpair : (c ^^^ d) ^^^ (a ^^^ b).setWidth 16 =
      (c ^^^ a.setWidth 16) ^^^ (d ^^^ b.setWidth 16) := by
    rw [BitVec.setWidth_xor]
    ac_rfl
  rw [crcStep, hpair, crcBits_xor, crcStep, crcStep]

theorem crcStep_injective_register (b : Byte) : Function.Injective (crcStep · b) :=
  fun _ _ h => (BitVec.xor_left_inj _).1 (crcBits_injective 8 h)

theorem crcStep_injective_byte (c : U16) : Function.Injective (crcStep c) := by
  intro a b h
  have hwide : a.setWidth 16 = b.setWidth 16 := (BitVec.xor_right_inj _).1 (crcBits_injective 8 h)
  simpa using congrArg (BitVec.setWidth 8) hwide

/-- Settles O12: an iteration is linear and one-to-one, and so is the XOR before the eight. -/
theorem crcStepIsLinearAndOneToOne : Obligations.CrcStepIsLinearAndOneToOne :=
  ⟨crcStep_xor, fun _ _ b h => crcStep_injective_register b h,
    fun c _ _ h => crcStep_injective_byte c h⟩

theorem hiByte_xor_setWidth (c : U16) (b : Byte) :
    hiByte (c ^^^ b.setWidth 16) = hiByte c := by
  refine BitVec.eq_of_getLsbD_eq fun i _ => ?_
  simp [hiByte]

/-- Settles O11: `bit` is `crcBit`, and the XOR with a byte reaches bits 7..0 only. -/
theorem crcStepIsEightShiftsLowBitFirst : Obligations.CrcStepIsEightShiftsLowBitFirst := by
  intro c b bit hbit
  obtain rfl : bit = crcBit := funext hbit
  exact ⟨rfl, hiByte_xor_setWidth c b⟩

/-! ## The bytes of a sequence (40_crc.md R101, R109, R110) -/

/-- The bytes behind byte `b` are folded into the register that its step leaves. -/
theorem crc16_append_cons (s : List Byte) (b : Byte) (t : List Byte) :
    crc16 (s ++ b :: t) = crcFold (crcStep (crc16 s) b) t :=
  crcFold_append crcSeed s (b :: t)

/-- Settles O13. -/
theorem crcOfASequenceFoldsInIndexOrder : Obligations.CrcOfASequenceFoldsInIndexOrder :=
  ⟨rfl, fun s b => crc16_append_cons s b []⟩

theorem crcFold_injective_register (s : List Byte) : Function.Injective (crcFold · s) := by
  induction s with
  | nil => exact Function.injective_id
  | cons b s ih => exact ih.comp (crcStep_injective_register b)

/-- The register's own low byte cancels its low half, so that the eight iterations only shift. -/
theorem crcStep_loByte (c : U16) : crcStep c (loByte c) = (hiByte c).setWidth 16 := by
  have hzero (i : Nat) (hi : i < 8) : (c ^^^ (loByte c).setWidth 16).getLsbD i = false := by
    have hi16 : i < 16 := by omega
    simp [loByte, hi, hi16]
  rw [crcStep, crcBits_eq_shift hzero]
  refine BitVec.eq_of_getLsbD_eq fun i hi => ?_
  by_cases h : i < 8
  · simp [hiByte, loByte, h, hi]
  · have hout : c.getLsbD (8 + i) = false := BitVec.getLsbD_of_ge c _ (by omega)
    simp [hiByte, loByte, h, hi, hout]

theorem crcStep_setWidth_self (b : Byte) : crcStep (b.setWidth 16) b = 0 := by
  rw [crcStep, BitVec.xor_self]
  decide

theorem crc16_appendCrc (s : List Byte) : crc16 (appendCrc s) = 0 := by
  have hfield : crc16 (appendCrc s) =
      crcStep (crcStep (crc16 s) (loByte (crc16 s))) (hiByte (crc16 s)) :=
    crcFold_append crcSeed s (crcBytes s)
  rw [hfield, crcStep_loByte, crcStep_setWidth_self]

/-- Settles O20: the low checksum byte leaves the high one in the register, which folds to zero. -/
theorem intactFrameLeavesResidueZero : Obligations.IntactFrameLeavesResidueZero := by
  refine ⟨crc16_appendCrc, fun s bytes hpending => ?_⟩
  have hrun := run_crcStream hpending (appendCrc bytes)
  rw [appendCrc_length] at hrun
  refine ⟨_, hrun, crc16_appendCrc bytes, ?_⟩
  rw [checksum, crc16_appendCrc]
  rfl

/-- Settles O15: the last two bytes are the checksum of the bytes before them, high byte first. -/
theorem checksumRoundTripOnBuiltFrames : Obligations.ChecksumRoundTripOnBuiltFrames := by
  rintro s _ rfl
  rw [appendCrc_length, Nat.add_sub_cancel, appendCrc_take_length, be16_checksum]
  exact List.drop_left.symm

/-! ## The CRC commands (40_crc.md R105 to R108) -/

theorem exec_crcInit (s : State) :
    exec .crcInit s = .next ((s.setCrc crcSeed).setResult (Result.statusOnly .ok)) :=
  exec_eq .crcInit s

theorem exec_crcUpdate (din : Byte) (s : State) :
    exec (.crcUpdate din) s =
      .next ((s.setCrc (crcStep s.crc din)).setResult (Result.statusOnly .ok)) :=
  exec_eq (.crcUpdate din) s

/-- Settles O16: CRC_INIT is idempotent as every command but CRC_UPDATE is. -/
theorem crcInitWritesTheSeed : Obligations.CrcInitWritesTheSeed := by
  refine ⟨fun c h => decode_eq_of_opcode h trivial, exec_crcInit,
    fun s t => exec_idempotent (fun _ => Instr.noConfusion), fun s t hreset h => ?_⟩
  obtain rfl := Host.Outcome.next.inj ((exec_crcInit s).symm.trans h)
  exact hreset.symm

/-- Settles O17: DIN is folded into the CRC value that the command finds. -/
theorem crcUpdateFoldsOneByte : Obligations.CrcUpdateFoldsOneByte :=
  ⟨fun _ h => decode_eq_of_opcode h rfl, fun s din => exec_crcUpdate din s,
    fun s din => ⟨_, _, exec_crcUpdate din s, exec_crcUpdate din _, rfl⟩,
    by decide, by decide, by decide⟩

theorem swap16_swap16 (v : U16) : swap16 (swap16 v) = v := by
  rw [swap16, swap16, loByte_join16, hiByte_join16, join16_hiByte_loByte]

theorem be16_swap16 (v : U16) : be16 (swap16 v) = [loByte v, hiByte v] := by
  rw [be16, swap16, hiByte_join16, loByte_join16]

/-- Settles O18: CRC is shown with its bytes swapped, and swapping them again gives it back. -/
theorem crcReadReturnsTheSwappedRegister : Obligations.CrcReadReturnsTheSwappedRegister :=
  ⟨fun _ h => decode_eq_of_opcode h trivial, fun s => exec_of_writesCrc_eq_false s rfl,
    fun _ => rfl, by decide, swap16_swap16, be16_swap16, by decide⟩

theorem exec_crcBlock_of_overlong {s : State} {buf : List Byte}
    (h : s.config.bufMax < buf.length) :
    exec (.crcBlock buf) s = .next (s.setResult (Result.statusOnly .errCmd)) := by
  rw [exec_of_writesCrc_eq_false s rfl, resultOf_of_overlong s.crc rfl h]

/-- The example of 40_crc.md R108, a read request of slave 1. -/
theorem checksum_of_read_request :
    swap16 (crc16 [0x01, 0x03, 0x00, 0x00, 0x00, 0x01]) = 0x840A := by
  have hcrc : crc16 [0x01, 0x03, 0x00, 0x00, 0x00, 0x01] = 0x0A84 := by
    simp [crc16, crcSeed, crcStep, crcBits, crcBit, crcPoly]
  rw [hcrc]
  decide

/-- Settles O19: BUF alone decides the record, and CRC stays as it is. -/
theorem crcBlockReturnsTheChecksum : Obligations.CrcBlockReturnsTheChecksum :=
  ⟨fun _ h => decode_eq_of_opcode h rfl, fun _ _ => exec_crcBlock_of_fits,
    fun _ _ => exec_crcBlock_of_overlong, by decide, by decide, checksum_of_read_request,
    checksumRoundTripOnBuiltFrames⟩

/-! ## A changed byte of a read response (42_frame_check.md R140) -/

/-- Sequences that differ in one byte have different CRC values: the byte's step makes the registers
differ, and the bytes behind it keep them so. -/
theorem crc16_set_ne {s : List Byte} {k : Nat} {b : Byte} (hk : k < s.length) (hb : s[k]? ≠ some b) :
    crc16 (s.set k b) ≠ crc16 s := by
  have hold : s = s.take k ++ s[k] :: s.drop (k + 1) := by simp
  have hnew : s.set k b = s.take k ++ b :: s.drop (k + 1) := by
    rw [List.set_eq_take_append_cons_drop, if_pos hk]
  intro h
  rw [hnew, congrArg crc16 hold, crc16_append_cons, crc16_append_cons] at h
  have hbyte : b = s[k] := crcStep_injective_byte _ (crcFold_injective_register _ h)
  exact hb (hbyte ▸ List.getElem?_eq_getElem hk)

theorem crc16_of_readRespOk {b : List Byte} {slave fc len : Byte}
    (h : readRespOk b slave fc len = true) : crc16 b = 0 := by
  obtain ⟨-, hcrc, -⟩ := (readRespOk_iff b slave fc len).1 h
  rw [hcrc, crc16_appendCrc]

/-- Settles O33: an accepted response has CRC value zero, and with one byte changed it no longer has. -/
theorem anyChangedByteOfAReadResponseIsRejected :
    Obligations.AnyChangedByteOfAReadResponseIsRejected := by
  intro s slave expfc explen buf k b hok hk hb
  have hfits : (buf.set k b).length ≤ s.config.bufMax := by
    rw [List.length_set]
    exact (length_le_of_readRespOk hok).trans (bufMax_ge s.config)
  have hno : ¬ readRespOk (buf.set k b) slave expfc explen = true := fun hset =>
    crc16_set_ne hk hb ((crc16_of_readRespOk hset).trans (crc16_of_readRespOk hok).symm)
  rw [exec_chkRd_of_fits slave expfc explen hfits, readCheckResult_of_not_ok hno]
  rfl

end Sys2Proof.Machine
end

section
/-! The build commands and their frames (41_frame_build.md). -/

namespace Sys2Proof.Machine

/-! ## The address check (41_frame_build.md R121) -/

theorem slaveLegal_eq_false_iff (slave : Byte) :
    slaveLegal slave = false ↔ slave = 0 ∨ 247 < slave.toNat := by
  have hzero : slave = 0 ↔ slave.toNat = 0 := BitVec.toNat_inj.symm
  rw [← Bool.not_eq_true, slaveLegal_iff, hzero]
  omega

theorem buildResult_of_illegal {slave : Byte} (f : List Byte) (h : slave = 0 ∨ 247 < slave.toNat) :
    buildResult slave f = Result.statusOnly .errAddr :=
  if_neg (Bool.not_eq_true _ ▸ (slaveLegal_eq_false_iff slave).2 h)

theorem writesCrc_of_buildSlave_eq_some {i : Instr} {slave : Byte} (h : i.buildSlave = some slave) :
    writesCrc i = false := by
  cases i with
  | crcInit => cases h
  | crcUpdate din => cases h
  | _ => rfl

/-- A build command to an illegal address refuses it, whatever its other operands are. -/
theorem resultOf_of_illegal {i : Instr} {slave : Byte} (cfg : Config) (crc : U16)
    (hbuild : i.buildSlave = some slave) (h : slave = 0 ∨ 247 < slave.toNat) :
    resultOf cfg crc i = Result.statusOnly .errAddr := by
  cases i with
  | bldRh =>
    cases hbuild
    exact buildResult_of_illegal _ h
  | bldRi =>
    cases hbuild
    exact buildResult_of_illegal _ h
  | bldWs =>
    cases hbuild
    exact buildResult_of_illegal _ h
  | _ => cases hbuild

theorem exec_of_illegal {i : Instr} {slave : Byte} (s : State) (hbuild : i.buildSlave = some slave)
    (h : slave = 0 ∨ 247 < slave.toNat) :
    exec i s = .next (s.setResult (Result.statusOnly .errAddr)) := by
  rw [exec_of_writesCrc_eq_false s (writesCrc_of_buildSlave_eq_some hbuild),
    resultOf_of_illegal _ _ hbuild h]

/-- A build command to a legal address answers its frame. -/
theorem exec_of_legal {i : Instr} {slave : Byte} {f : List Byte} (s : State)
    (hbuild : i.buildSlave = some slave) (hframe : resultOf s.config s.crc i = buildResult slave f)
    (hlow : 1 ≤ slave.toNat) (hhigh : slave.toNat ≤ 247) :
    exec i s = .next (s.setResult (Result.withFrame f)) := by
  rw [exec_of_writesCrc_eq_false s (writesCrc_of_buildSlave_eq_some hbuild), hframe,
    buildResult_of_legal f hlow hhigh]

/-! ## The bytes of a frame (41_frame_build.md R120) -/

theorem buildFrame_take_one (slave fc : Byte) (w1 w2 : U16) :
    (buildFrame slave fc w1 w2).take 1 = [slave] := rfl

theorem buildFrame_getElem?_one (slave fc : Byte) (w1 w2 : U16) :
    (buildFrame slave fc w1 w2)[1]? = some fc := rfl

/-- Bytes 2-5 are the two words. -/
theorem buildFrame_words (slave fc : Byte) (w1 w2 : U16) :
    ((buildFrame slave fc w1 w2).drop 2).take 4 = be16 w1 ++ be16 w2 := rfl

/-- Bytes 4-5 are the second word, high byte first. -/
theorem buildFrame_second_word (slave fc : Byte) (w1 w2 : U16) :
    ((buildFrame slave fc w1 w2).drop 4).take 2 = be16 w2 := rfl

/-- Bytes 6-7 are the checksum field of the six bytes before them. -/
theorem buildFrame_drop_six (slave fc : Byte) (w1 w2 : U16) :
    (buildFrame slave fc w1 w2).drop 6 = crcBytes ([slave, fc] ++ be16 w1 ++ be16 w2) := rfl

/-- A frame is its first six bytes and then their CRC value, low byte first. -/
theorem buildFrame_eq_append {slave fc : Byte} {w1 w2 v : U16} {head : List Byte}
    (hhead : [slave, fc] ++ be16 w1 ++ be16 w2 = head) (hcrc : crc16 head = v) :
    buildFrame slave fc w1 w2 = head ++ [loByte v, hiByte v] := by
  rw [buildFrame, hhead, appendCrc, crcBytes, hcrc]

/-- Settles O24. -/
theorem buildFrameLayout : Obligations.BuildFrameLayout :=
  fun _ _ _ _ _ hhead => buildFrame_eq_append hhead.symm rfl

/-- The checksum field tells the CRC value it was made from. -/
theorem crc16_eq_of_crcBytes_eq {s t : List Byte} (h : crcBytes s = crcBytes t) :
    crc16 s = crc16 t := by
  obtain ⟨hlo, hhi⟩ : loByte (crc16 s) = loByte (crc16 t) ∧ hiByte (crc16 s) = hiByte (crc16 t) := by
    simpa [crcBytes] using h
  rw [← join16_hiByte_loByte (crc16 s), hlo, hhi, join16_hiByte_loByte]

/-- Frames that differ in the function code alone have different checksums. -/
theorem buildFrame_checksum_ne {fc gc : Byte} (hne : fc ≠ gc) (slave : Byte) (w1 w2 : U16) :
    (buildFrame slave fc w1 w2).drop 6 ≠ (buildFrame slave gc w1 w2).drop 6 := by
  rw [buildFrame_drop_six, buildFrame_drop_six]
  intro h
  have hother : ([slave, gc] ++ be16 w1 ++ be16 w2)[1]? ≠ some fc := fun hfc =>
    hne (Option.some.inj hfc).symm
  exact crc16_set_ne (k := 1) (by simp) hother (crc16_eq_of_crcBytes_eq h)

/-! ## The build commands (41_frame_build.md R122 to R124) -/

/-- The example of 41_frame_build.md R122; its checksum is that of 40_crc.md R108. -/
theorem buildFrame_bldRh_example :
    buildFrame 1 3 0x0000 0x0001 = [0x01, 0x03, 0x00, 0x00, 0x00, 0x01, 0x84, 0x0A] := by
  have hcrc : crc16 [0x01, 0x03, 0x00, 0x00, 0x00, 0x01] = 0x0A84 := by
    rw [← swap16_swap16 (crc16 _), checksum_of_read_request]
    decide
  rw [buildFrame_eq_append (by decide) hcrc]
  decide

/-- The example of 41_frame_build.md R123. -/
theorem buildFrame_bldRi_example :
    buildFrame 5 4 0xD010 0x0001 = [0x05, 0x04, 0xD0, 0x10, 0x00, 0x01, 0x09, 0x4B] := by
  have hcrc : crc16 [0x05, 0x04, 0xD0, 0x10, 0x00, 0x01] = 0x4B09 := by
    simp [crc16, crcSeed, crcStep, crcBits, crcBit, crcPoly]
  rw [buildFrame_eq_append (by decide) hcrc]
  decide

/-- The example of 41_frame_build.md R124. -/
theorem buildFrame_bldWs_example :
    buildFrame 5 6 0x0101 0x0014 = [0x05, 0x06, 0x01, 0x01, 0x00, 0x14, 0xD8, 0x7D] := by
  have hcrc : crc16 [0x05, 0x06, 0x01, 0x01, 0x00, 0x14] = 0x7DD8 := by
    simp [crc16, crcSeed, crcStep, crcBits, crcBit, crcPoly]
  rw [buildFrame_eq_append (by decide) hcrc]
  decide

/-- Settles O25: the address alone decides between the frame and ERR_ADDR. -/
theorem readHoldingRequestIsBuilt : Obligations.ReadHoldingRequestIsBuilt :=
  ⟨fun _ h => decode_eq_of_opcode h ⟨rfl, rfl⟩, fun s _ _ => exec_of_legal s rfl rfl,
    fun s _ _ => exec_of_illegal s rfl, fun _ _ => ⟨rfl, rfl⟩, buildFrame_bldRh_example⟩

/-- Settles O26: as for BLD_RH; of the six covered bytes the frames differ in the function code alone, so
their checksums differ too. -/
theorem readInputRequestIsBuilt : Obligations.ReadInputRequestIsBuilt := by
  refine ⟨fun _ h => decode_eq_of_opcode h ⟨rfl, rfl⟩, fun s _ _ => exec_of_legal s rfl rfl,
    fun s _ _ => exec_of_illegal s rfl, ?_, buildFrame_bldRi_example⟩
  rintro slave regaddr _ _ rfl rfl
  refine ⟨?_, ?_, ?_, buildFrame_checksum_ne (by decide) slave regaddr 0x0001, rfl, rfl⟩
  · rw [buildFrame_take_one, buildFrame_take_one]
  · rw [buildFrame_getElem?_one, buildFrame_getElem?_one]
    decide
  · rw [buildFrame_words, buildFrame_words]

/-- Settles O27: VALUE stands in bytes 4-5 as given, and no value is refused. -/
theorem writeRequestIsBuilt : Obligations.WriteRequestIsBuilt :=
  ⟨fun _ h => decode_eq_of_opcode h ⟨rfl, rfl, rfl⟩, fun s _ _ _ => exec_of_legal s rfl rfl,
    fun s _ _ _ => exec_of_illegal s rfl,
    fun slave regaddr => ⟨buildFrame_second_word slave 6 regaddr 0xFFFF,
      buildFrame_second_word slave 6 regaddr 0x8000, buildFrame_second_word slave 6 regaddr 0x7FFF⟩,
    buildFrame_bldWs_example⟩

end Sys2Proof.Machine
end

section
/-! The validations and the check commands (42_frame_check.md). -/

namespace Sys2Proof.Machine

/-! ## The validation of a write echo (42_frame_check.md R141) -/

/-- Settles O35: the range of indexes that the definition walks is that of REQ. -/
theorem writeValidationIsEquality : Obligations.WriteValidationIsEquality := by
  intro req b
  simp only [writeEchoOk, Bool.and_eq_true, beq_iff_eq, List.all_eq_true, List.mem_range]

theorem writeEchoOk_iff_eq (req b : List Byte) : writeEchoOk req b = true ↔ b = req := by
  rw [writeValidationIsEquality]
  constructor
  · rintro ⟨hlen, hbytes⟩
    exact List.ext_getElem?' fun i hi => hbytes i (by rwa [hlen, max_self] at hi)
  · rintro rfl
    exact ⟨rfl, fun _ _ => rfl⟩

/-! ## An over-long BUF (30_encoding.md R63) -/

theorem exec_of_overlong {i : Instr} {buf : List Byte} {s : State} (hbuf : i.bufOperand = some buf)
    (hlong : s.config.bufMax < buf.length) :
    exec i s = .next (s.setResult (Result.statusOnly .errCmd)) := by
  rw [exec_of_writesCrc_eq_false s (writesCrc_of_bufOperand_eq_some hbuf),
    resultOf_of_overlong s.crc hbuf hlong]

/-! ## CHK_WR (42_frame_check.md R143) -/

theorem Status.ofCheck_eq_ok_iff (accepted : Bool) :
    Status.ofCheck accepted = .ok ↔ accepted = true := by
  cases accepted <;> decide

theorem exec_chkWr_of_fits {buf : List Byte} {s : State} (req : Vector Byte 8)
    (h : buf.length ≤ s.config.bufMax) :
    exec (.chkWr req buf) s =
      .next (s.setResult (Result.statusOnly (Status.ofCheck (writeEchoOk req.toList buf)))) := by
  rw [exec_of_writesCrc_eq_false s rfl, resultOf, unlessTooLong_of_fits _ h]

/-- REQ itself is short enough for every BUF_MAX. -/
theorem exec_chkWr_echo (req : Vector Byte 8) (s : State) :
    exec (.chkWr req req.toList) s = .next (s.setResult (Result.statusOnly .ok)) := by
  have hfits : req.toList.length ≤ s.config.bufMax :=
    Vector.length_toList.trans_le (le_trans (by decide) (bufMax_ge s.config))
  rw [exec_chkWr_of_fits req hfits, (writeEchoOk_iff_eq _ _).2 rfl]
  rfl

theorem exec_chkWr_of_ne {req : Vector Byte 8} {buf : List Byte} {s : State}
    (hfits : buf.length ≤ s.config.bufMax) (hne : buf ≠ req.toList) :
    exec (.chkWr req buf) s = .next (s.setResult (Result.statusOnly .reject)) := by
  have hno : writeEchoOk req.toList buf = false :=
    Bool.eq_false_iff.2 (hne ∘ (writeEchoOk_iff_eq _ _).1)
  rw [exec_chkWr_of_fits req hfits, hno]
  rfl

/-- Settles O34: the echo is REQ and nothing else, and a BUF of another length is another BUF. -/
theorem writeCheckAcceptsExactlyTheEcho : Obligations.WriteCheckAcceptsExactlyTheEcho :=
  ⟨fun _ h => decode_eq_of_opcode h ⟨rfl, rfl⟩, fun s req _ =>
    ⟨exec_of_overlong rfl, exec_chkWr_echo req s, exec_chkWr_of_ne, fun hfits hlen =>
      exec_chkWr_of_ne hfits fun heq => hlen (heq ▸ Vector.length_toList)⟩⟩

/-- CHK_WR reports acceptance exactly for the echo, as long as BUF is not over-long. -/
theorem statusOnly_writeEcho_eq_ok_iff (req buf : List Byte) :
    some (Result.statusOnly (Status.ofCheck (writeEchoOk req buf))) = some (Result.statusOnly .ok) ↔
      buf = req := by
  rw [← writeEchoOk_iff_eq, ← Status.ofCheck_eq_ok_iff]
  simp [Result.statusOnly]

theorem crc16_buildFrame (slave fc : Byte) (w1 w2 : U16) : crc16 (buildFrame slave fc w1 w2) = 0 :=
  crc16_appendCrc _

/-- Settles O36: CHK_WR accepts REQ alone, and the frame that BLD_WS built ends with its checksum. -/
theorem builtWriteRequestIsEchoedByItselfAlone :
    Obligations.BuiltWriteRequestIsEchoedByItselfAlone := by
  intro s slave regaddr value hlow hhigh
  refine ⟨_, buildFrame slave fcWriteSingle regaddr value,
    exec_bldWs_of_legal regaddr value s hlow hhigh, rfl,
    ⟨⟨(buildFrame slave fcWriteSingle regaddr value).toArray, rfl⟩, rfl⟩, ?_⟩
  intro req buf hreq hfits
  have haccept := statusOnly_writeEcho_eq_ok_iff (buildFrame slave fcWriteSingle regaddr value) buf
  refine ⟨_, exec_chkWr_of_fits req hfits, ?_⟩
  rw [hreq]
  exact ⟨haccept, fun hok => (congrArg crc16 (haccept.1 hok)).trans (crc16_buildFrame _ _ _ _)⟩

/-! ## The validation of a read response (42_frame_check.md R140) -/

/-- Settles O30: condition (a) is the outer test of the definition, and (b) to (f) stand under it. -/
theorem readValidationIsTheSixConditions : Obligations.ReadValidationIsTheSixConditions := by
  intro b slave fc len
  by_cases hlen : b.length = len.toNat + 5
  · rw [readRespOk, if_pos hlen]
    simp only [Bool.and_eq_true, beq_iff_eq, Option.any_eq_true, decide_eq_true_eq, and_assoc, loByte,
      hiByte, hlen, true_and]
  · rw [readRespOk, if_neg hlen]
    exact iff_of_false Bool.false_ne_true fun h => hlen h.1

/-! ## CHK_RD (42_frame_check.md R142) -/

theorem exec_chkRd_of_ok {slave expfc explen : Byte} {buf : List Byte} {s : State}
    (hfits : buf.length ≤ s.config.bufMax) (hok : readRespOk buf slave expfc explen = true) :
    exec (.chkRd slave expfc explen buf) s =
      .next (s.setResult (Result.withPayload (slice buf 3 explen.toNat))) := by
  rw [exec_chkRd_of_fits slave expfc explen hfits, readCheckResult_of_ok hok]

theorem exec_chkRd_of_not_ok {slave expfc explen : Byte} {buf : List Byte} {s : State}
    (hfits : buf.length ≤ s.config.bufMax) (hno : readRespOk buf slave expfc explen = false) :
    exec (.chkRd slave expfc explen buf) s = .next (s.setResult (Result.statusOnly .reject)) := by
  rw [exec_chkRd_of_fits slave expfc explen hfits,
    readCheckResult_of_not_ok (Bool.eq_false_iff.1 hno)]

theorem readRespOk_of_length_ne {b : List Byte} {slave fc len : Byte}
    (h : b.length ≠ len.toNat + 5) : readRespOk b slave fc len = false :=
  Bool.eq_false_iff.2 fun hok => h (length_eq_of_readRespOk hok)

theorem readRespOk_of_slave_ne {b : List Byte} {slave fc len : Byte} (h : b[0]? ≠ some slave) :
    readRespOk b slave fc len = false := by
  refine Bool.eq_false_iff.2 fun hok => ?_
  obtain ⟨-, -, hslave, -, -⟩ := (readRespOk_iff b slave fc len).1 hok
  exact h hslave

theorem readRespOk_of_fc_ne {b : List Byte} {slave fc len : Byte} (h : b[1]? ≠ some fc) :
    readRespOk b slave fc len = false := by
  refine Bool.eq_false_iff.2 fun hok => ?_
  obtain ⟨-, -, -, hfc, -⟩ := (readRespOk_iff b slave fc len).1 hok
  exact h hfc

/-- The example of 42_frame_check.md R142. -/
theorem readResponse_example :
    readResponse 10 4 [0x00, 0xC8] = [0x0A, 0x04, 0x02, 0x00, 0xC8, 0x1D, 0x67] := by
  have hcrc : crc16 [0x0A, 0x04, 0x02, 0x00, 0xC8] = 0x671D := by
    simp [crc16, crcSeed, crcStep, crcBits, crcBit, crcPoly]
  have hhead : [(10 : Byte), 4, BitVec.ofNat 8 2] ++ [0x00, 0xC8] = [0x0A, 0x04, 0x02, 0x00, 0xC8] := by
    decide
  rw [readResponse, List.length_cons, List.length_singleton, hhead, appendCrc, crcBytes, hcrc]
  decide

/-- Settles O31: `readRespOk` decides between PAYLOAD and REJECT, and it holds of the response frames:
the 5-byte frame is the response without payload. -/
theorem readCheckDeliversThePayload : Obligations.ReadCheckDeliversThePayload := by
  refine ⟨fun _ h => decode_eq_of_opcode h ⟨rfl, rfl, rfl, rfl⟩,
    fun s _ _ _ _ => ⟨exec_of_overlong rfl, exec_chkRd_of_ok, exec_chkRd_of_not_ok⟩,
    fun _ _ _ => readRespOk_of_slave_ne nofun, fun _ _ _ _ => readRespOk_of_slave_ne,
    fun _ _ _ _ => readRespOk_of_length_ne, fun _ _ _ _ => readRespOk_of_fc_ne,
    fun _ _ => readRespOk_readResponse (payload := []) rfl, ?_⟩
  rw [← readResponse_example]
  exact readRespOk_readResponse rfl

/-! ## REJECT (42_frame_check.md R144) -/

theorem writesCrc_of_checksResponse {i : Instr} (h : checksResponse i = true) :
    writesCrc i = false := by
  cases i with
  | chkRd => rfl
  | chkWr => rfl
  | _ => cases h

/-- A record with a STATUS other than ERR_CMD has passed the length check. -/
theorem unlessTooLong_eq_of_status {cfg : Config} {buf : List Byte} {r : Result} {st : Status}
    (hst : st ≠ .errCmd) (h : (unlessTooLong cfg buf r).status = st) : unlessTooLong cfg buf r = r :=
  if_neg fun hlong => hst (h ▸ (unlessTooLong_status_eq_errCmd cfg buf r).2 (.inl hlong))

theorem readCheckResult_eq_of_status_ne_ok {slave expfc explen : Byte} {buf : List Byte}
    (h : (readCheckResult slave expfc explen buf).status ≠ .ok) :
    readCheckResult slave expfc explen buf = Result.statusOnly .reject :=
  readCheckResult_of_not_ok fun hok => h ((readCheckResult_status_eq_ok _ _ _ _).2 hok)

/-- STATUS is all that a rejecting check command sets. -/
theorem resultOf_of_status_eq_reject {cfg : Config} {crc : U16} {i : Instr}
    (h : (resultOf cfg crc i).status = .reject) : resultOf cfg crc i = Result.statusOnly .reject := by
  have hchecks : checksResponse i = true := checksResponse_of_status_eq_reject h
  cases i with
  | chkRd slave expfc explen buf =>
    have hrecord : resultOf cfg crc (.chkRd slave expfc explen buf) =
        readCheckResult slave expfc explen buf := unlessTooLong_eq_of_status (by decide) h
    rw [hrecord] at h ⊢
    exact readCheckResult_eq_of_status_ne_ok (by rw [h]; decide)
  | chkWr req buf =>
    have hrecord : resultOf cfg crc (.chkWr req buf) =
        Result.statusOnly (Status.ofCheck (writeEchoOk req.toList buf)) :=
      unlessTooLong_eq_of_status (by decide) h
    rw [hrecord] at h ⊢
    exact congrArg Result.statusOnly h
  | _ => cases hchecks

/-- Settles O37: only a check command rejects, it leaves CRC alone, and its record holds STATUS only. -/
theorem rejectCarriesNoReason : Obligations.RejectCarriesNoReason := by
  intro i s
  refine ⟨_, _, exec_eq i s, State.setResult_result _ _, fun hreject => ?_⟩
  have hchecks := checksResponse_of_status_eq_reject hreject
  rw [resultOf_of_status_eq_reject hreject,
    crcAfter_of_writesCrc_eq_false s.crc (writesCrc_of_checksResponse hchecks)]
  exact ⟨hchecks, rfl⟩

end Sys2Proof.Machine
end

section
/-! The error conditions (60_exceptions.md). -/

namespace Sys2Proof.Machine

/-! ## What an error leaves (60_exceptions.md R164) -/

/-- Of the record shapes (10_state.md R27), only the ones with STATUS = OK carry another field. -/
theorem ResultShape.eq_statusOnly {r : Result} (h : ResultShape r) (hne : r.status ≠ .ok) :
    r = Result.statusOnly r.status := by
  obtain ⟨hframe, hpayload, hchk⟩ := h
  obtain ⟨status, chk, frame, payload⟩ := r
  obtain rfl : chk = none := Option.eq_none_iff_forall_not_mem.2 fun v hv => hne (hchk v hv).1
  obtain rfl : frame = none := Option.eq_none_iff_forall_not_mem.2 fun f hf => hne (hframe f hf).1
  obtain rfl : payload = none :=
    Option.eq_none_iff_forall_not_mem.2 fun p hp => hne (hpayload p hp).1
  rfl

theorem resultOf_of_status_ne_ok {cfg : Config} {crc : U16} {i : Instr}
    (h : (resultOf cfg crc i).status ≠ .ok) :
    resultOf cfg crc i = Result.statusOnly (resultOf cfg crc i).status :=
  (resultShape_resultOf cfg crc i).eq_statusOnly h

/-- The two commands that write CRC always end with OK. -/
theorem writesCrc_of_status_ne_ok {cfg : Config} {crc : U16} {i : Instr}
    (h : (resultOf cfg crc i).status ≠ .ok) : writesCrc i = false := by
  cases i with
  | crcInit => exact absurd rfl h
  | crcUpdate din => exact absurd rfl h
  | _ => rfl

theorem exec_of_status_ne_ok {i : Instr} {s : State}
    (h : (resultOf s.config s.crc i).status ≠ .ok) :
    exec i s = .next (s.setResult (Result.statusOnly (resultOf s.config s.crc i).status)) := by
  rw [exec_of_writesCrc_eq_false s (writesCrc_of_status_ne_ok h), ← resultOf_of_status_ne_ok h]

theorem fields_eq_none_of_status_ne_ok {cfg : Config} {crc : U16} {i : Instr}
    (h : (resultOf cfg crc i).status ≠ .ok) :
    (resultOf cfg crc i).chk = none ∧ (resultOf cfg crc i).frame = none ∧
      (resultOf cfg crc i).payload = none := by
  rw [resultOf_of_status_ne_ok h]
  exact ⟨rfl, rfl, rfl⟩

/-- Settles O42: a command that does not end with OK leaves STATUS alone, and no command reads the
record before it. -/
theorem errorsWriteNoStateAndDoNotLast : Obligations.ErrorsWriteNoStateAndDoNotLast := by
  intro i s
  refine ⟨_, _, exec_eq i s, State.setResult_result _ _, fun herror => ?_⟩
  have hne : (resultOf s.config s.crc i).status ≠ .ok := by
    obtain h | h := herror <;> rw [h] <;> decide
  rw [Host.Outcome.next.inj ((exec_eq i s).symm.trans (exec_of_status_ne_ok hne))]
  exact ⟨rfl, fun j => exec_result_irrelevant j s _⟩

/-! ## ERR_ADDR (60_exceptions.md R161) -/

/-- Settles O40: `slaveLegal` fails for 0 and from 248 on. -/
theorem errAddrExactlyForIllegalBuildAddress :
    Obligations.ErrAddrExactlyForIllegalBuildAddress := by
  intro i s
  refine ⟨_, _, exec_eq i s, State.setResult_result _ _, ?_, fun haddr => ?_⟩
  · simp only [resultOf_status_eq_errAddr_iff, slaveLegal_eq_false_iff]
    rfl
  · exact fields_eq_none_of_status_ne_ok (by rw [haddr]; decide)

/-! ## ERR_CMD (60_exceptions.md R162) -/

theorem wellFormed_eq_false_iff_exists (cfg : Config) (i : Instr) :
    i.wellFormed cfg = false ↔ ∃ buf, i.bufOperand = some buf ∧ cfg.bufMax < buf.length := by
  unfold Instr.wellFormed
  cases i.bufOperand <;> simp

theorem opcode_of_bufOperand_eq_some {i : Instr} {buf : List Byte} (h : i.bufOperand = some buf) :
    opcode i = 0x4 ∨ opcode i = 0x8 ∨ opcode i = 0x9 :=
  match i, h with
  | .crcBlock _, _ => .inl rfl
  | .chkRd _ _ _ _, _ => .inr (.inl rfl)
  | .chkWr _ _, _ => .inr (.inr rfl)

theorem bufOperand_decode {c : Command} (h : c.op = 0x4 ∨ c.op = 0x8 ∨ c.op = 0x9) :
    (decode c).bufOperand = some c.buf := by
  obtain h | h | h := h
  · exact congrArg Instr.bufOperand (decode_eq_of_opcode (i := .crcBlock _) h rfl)
  · exact congrArg Instr.bufOperand
      (decode_eq_of_opcode (i := .chkRd _ _ _ _) h ⟨rfl, rfl, rfl, rfl⟩)
  · exact congrArg Instr.bufOperand (decode_eq_of_opcode (i := .chkWr _ _) h ⟨rfl, rfl⟩)

/-- OP says whether a record's BUF is read at all (30_encoding.md R60, R63). -/
theorem wellFormed_decode_eq_false_iff (cfg : Config) (c : Command) :
    (decode c).wellFormed cfg = false ↔
      (c.op = 0x4 ∨ c.op = 0x8 ∨ c.op = 0x9) ∧ cfg.bufMax < c.buf.length := by
  rw [wellFormed_eq_false_iff_exists]
  constructor
  · rintro ⟨buf, hbuf, hlong⟩
    have hop : c.op = 0x4 ∨ c.op = 0x8 ∨ c.op = 0x9 :=
      opcode_decode c ▸ opcode_of_bufOperand_eq_some hbuf
    obtain rfl := Option.some.inj ((bufOperand_decode hop).symm.trans hbuf)
    exact ⟨hop, hlong⟩
  · rintro ⟨hop, hlong⟩
    exact ⟨c.buf, bufOperand_decode hop, hlong⟩

/-- Settles O41: OP alone tells a reserved row, and together with BUF an over-long one. -/
theorem errCmdExactlyForItsTwoCauses : Obligations.ErrCmdExactlyForItsTwoCauses := by
  intro c s
  refine ⟨_, _, exec_eq (decode c) s, State.setResult_result _ _, ?_, fun hcmd => ?_⟩
  · rw [resultOf_status_eq_errCmd_iff, isReserved_decode_iff, wellFormed_decode_eq_false_iff]
  · exact fields_eq_none_of_status_ne_ok (by rw [hcmd]; decide)

/-! ## The order of the conditions (60_exceptions.md R166) -/

theorem Status.eq_ok_or_reject {st : Status} (haddr : st ≠ .errAddr) (hcmd : st ≠ .errCmd) :
    st = .ok ∨ st = .reject := by
  cases st with
  | ok => exact .inl rfl
  | reject => exact .inr rfl
  | errAddr => exact absurd rfl haddr
  | errCmd => exact absurd rfl hcmd

theorem bufOperand_of_buildSlave_isSome {i : Instr} (h : i.buildSlave.isSome = true) :
    i.bufOperand = none :=
  match i, h with
  | .bldRh _ _, _ => rfl
  | .bldRi _ _, _ => rfl
  | .bldWs _ _ _, _ => rfl

/-- Settles O43: the conditions are those of ERR_CMD and of ERR_ADDR, and a command that meets none of
them ends with OK or REJECT. -/
theorem conditionsAreReportedInOrder : Obligations.ConditionsAreReportedInOrder := by
  intro i s
  have hcmd := resultOf_status_eq_errCmd_iff s.config s.crc i
  have haddr := resultOf_status_eq_errAddr_iff s.config s.crc i
  simp only [slaveLegal_eq_false_iff] at haddr
  refine ⟨_, _, exec_eq i s, State.setResult_result _ _, fun hreserved => hcmd.2 (.inl hreserved),
    fun _ hlong => hcmd.2 (.inr hlong), fun _ _ hillegal => haddr.2 hillegal,
    fun hreserved hformed hlegal => ?_, bufOperand_of_buildSlave_isSome⟩
  refine Status.eq_ok_or_reject (hlegal ∘ haddr.1) fun h => ?_
  obtain h | h := hcmd.1 h
  · exact Bool.false_ne_true (hreserved.symm.trans h)
  · exact Bool.false_ne_true (h.symm.trans hformed)

end Sys2Proof.Machine
end

section
/-! The end of every command, and commands inside a stream (70_reset_and_hazards.md). -/

namespace Sys2Proof.Machine

/-! ## Every step answers (60_exceptions.md R160, 70_reset_and_hazards.md R193) -/

theorem step_eq_next (s : State) : ∃ t, step s = .next t := by
  obtain ⟨-, h⟩ | ⟨_, -, h⟩ | ⟨_, _, -, h⟩ := step_cases s
  · exact ⟨_, h⟩
  · exact ⟨_, h⟩
  · exact ⟨_, h⟩

/-- Settles O44: the step of a presented command leaves the command's record, and no step depends on the
record before. -/
theorem everyCommandCompletes : Obligations.EveryCommandCompletes := by
  refine ⟨step_eq_next, fun s c rest hpending => ?_⟩
  have hstep := step_command_eq hpending
  exact ⟨_, _, hstep, rfl, rfl, rfl, fun before => (step_result_irrelevant s before).trans hstep⟩

/-! ## Commands inside a stream (70_reset_and_hazards.md R194) -/

/-- What a sequence of commands leaves in CRC is what its CRC-writing commands leave there. -/
theorem foldl_crcAfter_filter_writesCrc (crc : U16) (is : List Instr) :
    (is.filter writesCrc).foldl crcAfter crc = is.foldl crcAfter crc := by
  induction is generalizing crc with
  | nil => rfl
  | cons i is ih =>
    cases h : writesCrc i with
    | true => rw [List.filter_cons_of_pos h, List.foldl_cons, List.foldl_cons, ih]
    | false =>
      rw [List.filter_cons_of_neg (by simp [h]), List.foldl_cons,
        crcAfter_of_writesCrc_eq_false crc h, ih]

/-- Settles O23: CRC_INIT leaves the seed, and of the commands inside only the updates reach CRC, which
CRC_READ shows byte-swapped. -/
theorem interleavedCommandsDoNotDisturbAStream :
    Obligations.InterleavedCommandsDoNotDisturbAStream := by
  intro s inside bytes hpending hinside
  have hfold : (Instr.crcInit :: inside).foldl crcAfter s.crc = crc16 bytes := calc
    inside.foldl crcAfter crcSeed = (inside.filter writesCrc).foldl crcAfter crcSeed :=
      (foldl_crcAfter_filter_writesCrc crcSeed inside).symm
    _ = crc16 bytes := by
      rw [hinside]
      exact foldl_crcAfter_map_crcUpdate crcSeed bytes
  have hrun := run_present_encode hpending (Instr.crcInit :: inside) .crcRead
  rw [hfold] at hrun
  exact ⟨_, hrun, rfl, rfl⟩

end Sys2Proof.Machine
end
